-- ==== Sys2Proof/Word.lean ====
section
/-! DEFINITION. The word types of the machine (00_scope R8, R10): 8-bit data, 16-bit CPU addresses, 14-bit PPU
addresses and the 15-bit VRAM pointer. -/

namespace Sys2Proof

/-- A byte of data: every register but `pc`, every memory cell (R8). -/
abbrev Byte := BitVec 8

/-- A 16-bit CPU address (R70). -/
abbrev Addr := BitVec 16

/-- A 14-bit PPU address: the type itself is the reduction `a & 0x3FFF` (R71, R351). -/
abbrev PpuAddr := BitVec 14

/-- A loopy register: the 15-bit word of R38, whose bit 15 is always 0. -/
abbrev Loopy := BitVec 15

end Sys2Proof
end

