-- ==== Sys2Proof/Machine/Bits.lean ====
section
/-! DEFINITION. Bit fields, extension and byte order (00_scope R10, R11; 20_memory R85; 48 R390). -/

namespace Sys2Proof

/-- `zext_16(b)` (R11). -/
def zext16 (b : Byte) : Addr := b.setWidth 16

/-- `sext_16(b)` (R11): the only sign extension in the machine, for branch displacements. -/
def sext16 (b : Byte) : Addr := b.signExtend 16

/-- `{hi, lo}` (R10), little-endian in memory (R85). -/
def wordOf (hi lo : Byte) : Addr := hi ++ lo

/-- `v[15:8]`. -/
def hiByte (v : Addr) : Byte := v.extractLsb' 8 8

/-- `v[7:0]`. -/
def loByte (v : Addr) : Byte := v.extractLsb' 0 8

/-- `Crossed(a, b)`: two addresses cross a page when their high bytes differ (R172). -/
def pageCrossed (a b : Addr) : Bool := (a &&& 0xFF00#16) != (b &&& 0xFF00#16)

/-- `Reverse8(b)`: bit `k` of the result is bit `7 - k` of `b` (R390). -/
def reverse8 (b : Byte) : Byte := b.reverse

/-- One bit as a 0/1 number of a chosen width. -/
def bitOf {n : Nat} (w : Nat) (v : BitVec n) (i : Nat) : BitVec w := (BitVec.ofBool (v.getLsbD i)).setWidth w

/-- The field of `len` bits of a loopy register that starts at bit `lo` (R38). -/
def Loopy.field (r : Loopy) (lo len : Nat) : BitVec len := r.extractLsb' lo len

/-- A loopy register with that field replaced and every other bit kept (R38). -/
def Loopy.setField (r : Loopy) (lo : Nat) {len : Nat} (v : BitVec len) : Loopy :=
  (r &&& ~~~((BitVec.allOnes len).setWidth 15 <<< lo)) ||| (v.setWidth 15 <<< lo)

/-- The fields of a loopy register (R38). -/
def Loopy.coarseX (r : Loopy) : BitVec 5 := r.field 0 5
def Loopy.coarseY (r : Loopy) : BitVec 5 := r.field 5 5
def Loopy.nametableX (r : Loopy) : BitVec 1 := r.field 10 1
def Loopy.nametableY (r : Loopy) : BitVec 1 := r.field 11 1
def Loopy.fineY (r : Loopy) : BitVec 3 := r.field 12 3

/-- Writes of one field (R38). -/
def Loopy.setCoarseX (r : Loopy) (v : BitVec 5) : Loopy := r.setField 0 v
def Loopy.setCoarseY (r : Loopy) (v : BitVec 5) : Loopy := r.setField 5 v
def Loopy.setNametableX (r : Loopy) (v : BitVec 1) : Loopy := r.setField 10 v
def Loopy.setNametableY (r : Loopy) (v : BitVec 1) : Loopy := r.setField 11 v
def Loopy.setFineY (r : Loopy) (v : BitVec 3) : Loopy := r.setField 12 v

end Sys2Proof
end

