-- ==== Sys2Proof/Config.lean ====
section
/-! DEFINITION. What is fixed for the life of a core: the parameters of 00_scope R9 and the fixed sizes of R8.
The run-time parameters are carried in `State` as plain data that no step writes (log 2), so that a statement over every
state is a statement over every value of them. -/

namespace Sys2Proof

/-- `MIRRORING`: the name-table mirroring mode of the cartridge (R9, R91). -/
inductive Mirroring where
  | horizontal
  | vertical
  deriving DecidableEq, Repr

/-- `BRK_MODE`: what BRK does (R9, R282, D8). -/
inductive BrkMode where
  /-- The canonical software interrupt through `$FFFE`. -/
  | interrupt
  /-- The stop of a stand-alone test harness. -/
  | halt
  deriving DecidableEq, Repr

/-- `len(PRG_ROM)`: the two image sizes that are admitted (R80). -/
inductive PrgSize where
  | kib16
  | kib32
  deriving DecidableEq, Repr

/-- The number of bytes of a PRG image (R80). -/
def PrgSize.bytes : PrgSize → Nat
  | .kib16 => 0x4000
  | .kib32 => 0x8000

/-- The parameters of R9 that are consulted while the core runs, with R9's defaults. -/
structure Params where
  /-- `BRK_MODE` (D8). -/
  brkMode : BrkMode := .interrupt
  /-- `UNMAPPED_READ`, OPEN (R78, D18, U2). -/
  unmappedRead : Byte := 0xFF
  /-- `PPU_WO_READ`, OPEN (R335, D20, U3). -/
  ppuWoRead : Byte := 0x00
  /-- `PPU_SKIP_DOT0` (R373, D25). -/
  skipDot0 : Bool := true
  /-- `PC_ADVANCE_BY_VALUE_COMPARE` (R156, D10, U5). -/
  pcAdvanceByValueCompare : Bool := false
  deriving DecidableEq, Repr

namespace Config

/-- `NMI_CYCLES`: the cost of an NMI entry (R9, R470, D7, C2). -/
def nmiCycles : Nat := 7

/-- PPU dots per CPU cycle (R8, R430). -/
def dotsPerCycle : Nat := 3

/-- `len(CHR_ROM)` (R9, R90, D22). -/
def chrBytes : Nat := 0x2000

/-- Work RAM (R8). -/
def ramBytes : Nat := 0x800

/-- Physical name-table memory (R8). -/
def vramBytes : Nat := 0x800

/-- The palette table (R8). -/
def paletteBytes : Nat := 0x20

/-- OAM: 64 sprites of 4 bytes (R8, R72). -/
def oamBytes : Nat := 0x100

/-- The bytes of one OAM DMA (R436). -/
def dmaBytes : Nat := 256

/-- Staged sprites per scanline (R44). -/
def stagedSprites : Nat := 8

/-- The vectors (R8, R82). -/
def nmiVector : Addr := 0xFFFA
def resetVector : Addr := 0xFFFC
def brkVector : Addr := 0xFFFE

end Config

end Sys2Proof
end

