-- ==== Sys2Proof/Machine/Memory.lean ====
section
/-! DEFINITION. Memories as plain data: one canonical list of (address, byte) pairs for each of `ram`, `prg_rom`, `chr_rom`,
`vram`, `palette` and `oam` (10_state R48, R49, R51; 20_memory R70 to R73), and the frame buffer's sparse picture
(10_state R47). The maps that turn CPU and PPU addresses into cell numbers are in Bus.lean and PpuMemory.lean. -/

namespace Sys2Proof

/-- A memory: its listed cells, addresses strictly rising, none equal to what an unlisted cell reads as. -/
abbrev Memory := List Host.Cell

namespace Memory

/-- What a cell that is not listed reads as: RAM, VRAM, palette and OAM start all zero (R55, R500, D23; log 5), and the
bytes of a ROM image are listed where they are not zero. -/
def unlisted : Byte := 0x00

/-- The byte of one cell. -/
def read : Memory → Nat → Byte
  | [], _ => unlisted
  | (k, v) :: m, a => if a = k then v else if a < k then unlisted else read m a

/-- One cell written: the canonical form is kept (writing `unlisted` takes the entry out). -/
def write : Memory → Nat → Byte → Memory
  | [], a, v => if v = unlisted then [] else [(a, v)]
  | (k, b) :: m, a, v =>
    if a < k then (if v = unlisted then (k, b) :: m else (a, v) :: (k, b) :: m)
    else if a = k then (if v = unlisted then m else (a, v) :: m)
    else (k, b) :: write m a v

/-- The canonical form, above a lower bound of the addresses. -/
def wfFrom : Nat → Memory → Bool
  | _, [] => true
  | lo, (k, v) :: m => decide (lo ≤ k) && decide (v ≠ unlisted) && wfFrom (k + 1) m

/-- The canonical form: addresses strictly rising and no entry equal to `unlisted`. -/
def wf (m : Memory) : Bool := wfFrom 0 m

/-- Every listed address is below `n`. -/
def within (n : Nat) (m : Memory) : Bool := m.all fun c => decide (c.1 < n)

/-- The bytes of an image in a memory, from address `a` on. -/
def ofBytesAt : Nat → List Byte → Memory
  | _, [] => []
  | a, v :: bs => if v = unlisted then ofBytesAt (a + 1) bs else (a, v) :: ofBytesAt (a + 1) bs

/-- A ROM or RAM image as a memory. -/
def ofBytes (bs : List Byte) : Memory := ofBytesAt 0 bs

end Memory

/-- A picture of 256x240 cells, each cleared or a 6-bit colour index (R47). Only the cells that are not cleared are listed,
with the cell number `256 * row + column` strictly falling, so that the raster order of R391 adds at the head. -/
abbrev Frame := List (Nat × BitVec 6)

namespace Frame

/-- The number of cells of a picture (R47). -/
def cells : Nat := 256 * 240

/-- The number of the cell at (column, row). -/
def cell (column row : Nat) : Nat := 256 * row + column

/-- One cell: `none` is `cleared` (R47). -/
def read : Frame → Nat → Option (BitVec 6)
  | [], _ => none
  | (k, c) :: f, a => if a = k then some c else if k < a then none else read f a

/-- One cell written. -/
def write : Frame → Nat → BitVec 6 → Frame
  | [], a, v => [(a, v)]
  | (k, c) :: f, a, v =>
    if k < a then (a, v) :: (k, c) :: f else if a = k then (a, v) :: f else (k, c) :: write f a v

/-- The canonical form, below an upper bound of the cell numbers. -/
def wfBelow : Nat → Frame → Bool
  | _, [] => true
  | hi, (k, _) :: f => decide (k < hi) && wfBelow k f

/-- The canonical form: cell numbers strictly falling, all inside 256x240. -/
def wf (f : Frame) : Bool := wfBelow cells f

end Frame

end Sys2Proof
end

