-- ==== Sys2Proof/Machine/State.lean ====
section
/-! DEFINITION. The state of the core as plain data (10_state): CPU register file and hidden CPU state, bus, joypad, PPU, and
the run-time parameters. INVENTORY.md lists every field with its rule and its reset value. -/

namespace Sys2Proof.Machine

/-- The faults of R460: hard stops that no handler in the machine receives (R461). -/
inductive Fault where
  /-- F1, raised by the meanings of the 25 trapped encodings, at decode (R154, R312, R463). The spec names this stop. -/
  | unknownOpcode (opcode : Byte) (pc0 : Addr)
  /-- F2, raised by a bus write at or above `$8000` (R81, R421, R462). The spec names this stop. -/
  | romWrite (address : Addr) (value : Byte)
  /-- F3, raised when a memory address is asked for the accumulator format (R169). Only ill-formed terms do so (R464), so this
  stop is safe. -/
  | addressingMisuse (opcode : Byte)
  deriving DecidableEq, Repr

/-- What the model gives no meaning to: R460's F4 `Refused`, and an instruction not modelled. -/
inductive Refusal where
  /-- An instruction that has no meaning yet. Raised by no arm of `exec`. Safe. -/
  | notModelled (mnemonic : String)
  /-- An instruction byte lies at an address whose reads have side effects (R100, R159, U7). Raised by `tick`. Safe. -/
  | instructionByteAt (address : Addr)
  /-- A byte of the JMP-indirect pointer's target lies at such an address (R159, U7). Raised by `execJmpInd`. Safe. -/
  | pointerByteAt (address : Addr)
  /-- A PRG image of another length (R80, R500, U8). Raised by `powerOn`. Safe. -/
  | prgLength (bytes : Nat)
  /-- A CHR image of another length (R90, R500, U8). Raised by `powerOn`. Safe. -/
  | chrLength (bytes : Nat)
  /-- A `PPU_RESET_POS` outside -1..=260 and 0..=340 (R8, R15, R32; log 24). Raised by `powerOn`. Safe. -/
  | ppuPosition (scanline : Int) (dot : Nat)
  deriving DecidableEq, Repr

/-- `run` (R29). DESIGN CHOICE: `faulted` holds F1, F2 or F3; a refusal, F4 of R460, gives the input no meaning and is not recorded
(log 26). -/
inductive RunStatus where
  | running
  | halted
  | faulted (reason : Fault)
  deriving DecidableEq, Repr

/-- One of the eight sprite units: the four staged bytes in OAM's order and the two pattern shifters (R44, R45). -/
structure SpriteUnit where
  y : Byte
  tile : Byte
  attr : Byte
  /-- Decremented as a counter during the scanline (R378). -/
  x : Byte
  shifterLo : Byte
  shifterHi : Byte
  deriving DecidableEq, Repr

/-- A unit with nothing staged (R55, R388). -/
def SpriteUnit.empty : SpriteUnit :=
  { y := 0xFF, tile := 0xFF, attr := 0xFF, x := 0xFF, shifterLo := 0, shifterHi := 0 }

/-- The PPU (R32 to R48), with the cartridge's CHR ROM and mirroring mode it was created with. -/
structure Ppu where
  /-- -1..=260 (R32). -/
  scanline : Int
  /-- 0..=340 (R32). -/
  dot : Nat
  nmiPending : Bool
  /-- `$2000` (R34). -/
  control : Byte
  /-- `$2001` (R35). -/
  mask : Byte
  /-- Bits 7, 6 and 5 of `status` (R36). -/
  verticalBlank : Bool
  spriteZeroHit : Bool
  spriteOverflow : Bool
  oamAddr : Byte
  /-- `v` (R38). -/
  vramAddr : Loopy
  /-- `t` (R38). -/
  tramAddr : Loopy
  fineX : BitVec 3
  /-- `w` (R40). -/
  writeToggle : Bool
  dataBuffer : Byte
  bgNextTileId : Byte
  bgNextTileAttrib : BitVec 2
  bgNextTileLsb : Byte
  bgNextTileMsb : Byte
  bgShifterPatternLo : BitVec 16
  bgShifterPatternHi : BitVec 16
  bgShifterAttribLo : BitVec 16
  bgShifterAttribHi : BitVec 16
  /-- `sprite_scanline`, `sprite_shifter_lo` and `sprite_shifter_hi`, eight entries (R44, R45). -/
  sprites : List SpriteUnit
  spriteCount : Nat
  spriteZeroPossible : Bool
  /-- `sprite_zero_rendered` as R393 sets it: the pixel of the last composed dot came from staged entry 0. -/
  spriteZeroRendered : Bool
  /-- `sprite_zero_rendered` as R46 defines it: that entry is sprite 0 of OAM besides. DESIGN CHOICE: the two rules differ and the
  spec settles nothing, so that State holds both bits (log 25). -/
  spriteZeroChosen : Bool
  /-- 8 KiB, immutable (R93). -/
  chrRom : Memory
  /-- 2 KiB, by physical index (R91). -/
  vram : Memory
  /-- 32 bytes, by palette index (R92). -/
  palette : Memory
  /-- 256 bytes (R72). -/
  oam : Memory
  mirroring : Mirroring
  frameBuffer : Frame
  completedFrame : Frame
  deriving DecidableEq, Repr

/-- Joypad 1 (R52). -/
structure Joypad where
  strobe : Bool
  index : Nat
  /-- Bit `k` is 1 while button `k` of A, B, Select, Start, Up, Down, Left, Right is held (R442). -/
  buttons : Byte
  deriving DecidableEq, Repr

/-- The whole core. -/
structure State where
  /-- The register file (R20 to R24). -/
  a : Byte
  x : Byte
  y : Byte
  sp : Byte
  p : Byte
  pc : Addr
  /-- The pending-cycle counter (R28). -/
  cycles : Nat
  run : RunStatus
  /-- 2 KiB of work RAM, by cell number (R49, R75). -/
  ram : Memory
  /-- `bus.cycles` (R50). -/
  busCycles : Nat
  /-- The PRG image, by offset, immutable (R51, R79). -/
  prgRom : Memory
  prgSize : PrgSize
  joypad : Joypad
  ppu : Ppu
  /-- R9's run-time parameters (the model's own field, log 2). -/
  params : Params
  /-- `JOYPAD_INPUT` (R9): the button bytes the host gives at its next callbacks, oldest first (the model's own field, log 9). -/
  hostInputs : List Byte
  /-- How many per-frame callbacks have been made (the model's own field, log 9). -/
  callbacks : Nat
  deriving DecidableEq, Repr

/-- The PPU of R55 with a given position, cartridge and memories. -/
def Ppu.atPowerOn (scanline : Int) (dot : Nat) (chrRom : Memory) (mirroring : Mirroring) (vram palette oam : Memory) : Ppu :=
  { scanline, dot, nmiPending := false, control := 0x00, mask := 0x00
    verticalBlank := false, spriteZeroHit := false, spriteOverflow := false
    oamAddr := 0, vramAddr := 0, tramAddr := 0, fineX := 0, writeToggle := false, dataBuffer := 0
    bgNextTileId := 0, bgNextTileAttrib := 0, bgNextTileLsb := 0, bgNextTileMsb := 0
    bgShifterPatternLo := 0, bgShifterPatternHi := 0, bgShifterAttribLo := 0, bgShifterAttribHi := 0
    sprites := List.replicate Config.stagedSprites SpriteUnit.empty, spriteCount := 0
    spriteZeroPossible := false, spriteZeroRendered := false, spriteZeroChosen := false
    chrRom, vram, palette, oam, mirroring, frameBuffer := [], completedFrame := [] }

/-- The joypad of R55. -/
def Joypad.atPowerOn : Joypad := { strobe := false, index := 0, buttons := 0x00 }

/-- The machine right after power-on and reset (R55, R500, R501) with R9's defaults and a blank cartridge: 32 KiB of PRG and
8 KiB of CHR, all zero, horizontal mirroring (log 1). `pc` is the reset vector read from that PRG image (R501): its
bytes at `$FFFC` and `$FFFD` are zero. -/
def State.reset : State :=
  { a := 0x00, x := 0x00, y := 0x00, sp := 0xFD, p := 0x24, pc := 0x0000, cycles := 0, run := .running
    ram := [], busCycles := 0, prgRom := [], prgSize := .kib32, joypad := Joypad.atPowerOn
    ppu := Ppu.atPowerOn (-1) 0 [] .horizontal [] [] []
    params := {}, hostInputs := [], callbacks := 0 }

end Sys2Proof.Machine
end

