-- ==== Sys2Proof/Machine/PpuMemory.lean ====
section
/-! DEFINITION. The PPU's own memory: the fields of its registers (10_state R34 to R36), the name-table and palette maps
(20_memory R90 to R92) and the two memory primitives `PpuRead` and `PpuWrite` (47 R351 to R353). -/

namespace Sys2Proof.Machine

namespace Ppu

/-! The fields of `control` (R34). -/

def incrementMode (u : Ppu) : Bool := u.control.getLsbD 2
def patternSprite (u : Ppu) : Bool := u.control.getLsbD 3
def patternBackground (u : Ppu) : Bool := u.control.getLsbD 4
def tallSprites (u : Ppu) : Bool := u.control.getLsbD 5
def nmiEnable (u : Ppu) : Bool := u.control.getLsbD 7

/-! The fields of `mask` (R35). -/

def grayscale (u : Ppu) : Bool := u.mask.getLsbD 0
def renderBackgroundLeft (u : Ppu) : Bool := u.mask.getLsbD 1
def renderSpritesLeft (u : Ppu) : Bool := u.mask.getLsbD 2
def renderBackground (u : Ppu) : Bool := u.mask.getLsbD 3
def renderSprites (u : Ppu) : Bool := u.mask.getLsbD 4

/-- `rendering` (R35). -/
def rendering (u : Ppu) : Bool := u.renderBackground || u.renderSprites

/-- The three bits of `status` in their places, bits 4 to 0 zero (R36). -/
def status (u : Ppu) : Byte :=
  (if u.verticalBlank then 0x80 else 0) ||| (if u.spriteZeroHit then 0x40 else 0) ||| (if u.spriteOverflow then 0x20 else 0)

end Ppu

/-- The physical bank of a logical name table (R91's two rows). -/
def ntBank : Mirroring → Nat → Nat
  | .horizontal, nt => if nt < 2 then 0 else 1
  | .vertical, nt => nt % 2

/-- `NtIndex(a)`: the `vram` cell of a name-table address (R91, C6). -/
def ntIndex (mirroring : Mirroring) (a : PpuAddr) : Nat :=
  let i := (a &&& 0x2FFF#14).toNat - 0x2000
  ntBank mirroring (i / 0x400) * 0x400 + i % 0x400

/-- `PalIndex(a)`: the palette cell of a palette address, with the four aliases (R92). -/
def palIndex (a : PpuAddr) : Nat :=
  let i := (a &&& 0x001F#14).toNat
  if i = 0x10 ∨ i = 0x14 ∨ i = 0x18 ∨ i = 0x1C then i - 0x10 else i

/-- The mask that a palette byte is read through (R352). -/
def Ppu.paletteMask (u : Ppu) : Byte := if u.grayscale then 0x30 else 0x3F

/-- `PpuRead(a)` (R352); it has no side effect. -/
def ppuRead (u : Ppu) (a : PpuAddr) : Byte :=
  if a < 0x2000#14 then u.chrRom.read a.toNat
  else if a < 0x3F00#14 then u.vram.read (ntIndex u.mirroring a)
  else u.palette.read (palIndex a) &&& u.paletteMask

/-- `PpuWrite(a, v)` (R353): CHR is ROM and a write there changes nothing (D30). -/
def ppuWrite (u : Ppu) (a : PpuAddr) (v : Byte) : Ppu :=
  if a < 0x2000#14 then u
  else if a < 0x3F00#14 then { u with vram := u.vram.write (ntIndex u.mirroring a) v }
  else { u with palette := u.palette.write (palIndex a) v }

end Sys2Proof.Machine
end

