-- ==== Sys2Proof/Machine/PpuDot.lean ====
section
/-! DEFINITION. The PPU dot machine (48_ppu_dot_machine): one definition per phase of R372. `s` and `d` are the scanline and the
dot of the phase table: those at the start of the dot, after the dot-0 skip. -/

namespace Sys2Proof.Machine

/-! ### Background pipeline (R375 to R387) -/

/-- `ShiftBackground()` (R376). -/
def shiftBackground (u : Ppu) : Ppu :=
  if u.renderBackground then
    { u with bgShifterPatternLo := u.bgShifterPatternLo <<< 1, bgShifterPatternHi := u.bgShifterPatternHi <<< 1
             bgShifterAttribLo := u.bgShifterAttribLo <<< 1, bgShifterAttribHi := u.bgShifterAttribHi <<< 1 }
  else u

/-- One 16-bit shifter with its low byte replaced (R377). -/
def loadLow (shifter : BitVec 16) (v : Byte) : BitVec 16 := (shifter &&& 0xFF00#16) ||| v.setWidth 16

/-- `LoadBackgroundShifters()` (R377). -/
def loadBackgroundShifters (u : Ppu) : Ppu :=
  { u with
    bgShifterPatternLo := loadLow u.bgShifterPatternLo u.bgNextTileLsb
    bgShifterPatternHi := loadLow u.bgShifterPatternHi u.bgNextTileMsb
    bgShifterAttribLo := loadLow u.bgShifterAttribLo (if u.bgNextTileAttrib.getLsbD 0 then 0xFF else 0x00)
    bgShifterAttribHi := loadLow u.bgShifterAttribHi (if u.bgNextTileAttrib.getLsbD 1 then 0xFF else 0x00) }

/-- The first `n` elements changed, the others kept. -/
def mapFirst {α : Type} (f : α → α) : Nat → List α → List α
  | 0, l => l
  | _ + 1, [] => []
  | n + 1, x :: l => f x :: mapFirst f n l

/-- One staged sprite on one dot: its x counter counts down, and at 0 its shifters shift (R378). -/
def SpriteUnit.step (q : SpriteUnit) : SpriteUnit :=
  if q.x = 0 then { q with shifterLo := q.shifterLo <<< 1, shifterHi := q.shifterHi <<< 1 } else { q with x := q.x - 1 }

/-- `StepSprites()` (R378). -/
def stepSprites (d : Nat) (u : Ppu) : Ppu :=
  if u.renderSprites = true ∧ 1 ≤ d ∧ d ≤ 257 then { u with sprites := mapFirst SpriteUnit.step u.spriteCount u.sprites } else u

/-- The name-table address of the current tile (R379, R386). -/
def tileAddr (v : Loopy) : PpuAddr := 0x2000#14 ||| (v &&& 0x0FFF#15).setWidth 14

/-- Tile id fetch (R379, R386). -/
def fetchTileId (u : Ppu) : Ppu := { u with bgNextTileId := ppuRead u (tileAddr u.vramAddr) }

/-- The attribute-table address of the current tile (R380). -/
def attribAddr (v : Loopy) : PpuAddr :=
  0x23C0#14 ||| (v.nametableY.setWidth 14 <<< 11) ||| (v.nametableX.setWidth 14 <<< 10)
    ||| ((v.coarseY >>> 2).setWidth 14 <<< 3) ||| (v.coarseX >>> 2).setWidth 14

/-- The two bits of the tile's quadrant (R380). -/
def attribBits (v : Loopy) (b : Byte) : BitVec 2 :=
  let b1 := if v.coarseY.getLsbD 1 then b >>> 4 else b
  let b2 := if v.coarseX.getLsbD 1 then b1 >>> 2 else b1
  b2.extractLsb' 0 2

/-- Attribute fetch (R380). -/
def fetchAttrib (u : Ppu) : Ppu :=
  { u with bgNextTileAttrib := attribBits u.vramAddr (ppuRead u (attribAddr u.vramAddr)) }

/-- The pattern address of the fetched tile's current row, low plane (R381). -/
def patternAddr (u : Ppu) : PpuAddr :=
  (if u.patternBackground then 0x1000#14 else 0) + (u.bgNextTileId.setWidth 14 <<< 4) + u.vramAddr.fineY.setWidth 14

/-- Pattern low byte fetch (R381). -/
def fetchPatternLow (u : Ppu) : Ppu := { u with bgNextTileLsb := ppuRead u (patternAddr u) }

/-- Pattern high byte fetch (R382). -/
def fetchPatternHigh (u : Ppu) : Ppu := { u with bgNextTileMsb := ppuRead u (patternAddr u + 8) }

/-- `vram_addr` after one horizontal increment (R383). -/
def nextColumn (v : Loopy) : Loopy :=
  if v.coarseX = 31 then (v.setCoarseX 0).setNametableX (1 - v.nametableX) else v.setCoarseX (v.coarseX + 1)

/-- `IncrementScrollX()` (R383). -/
def incrementScrollX (u : Ppu) : Ppu := if u.rendering then { u with vramAddr := nextColumn u.vramAddr } else u

/-- `vram_addr` after one vertical increment (R384). -/
def nextRow (v : Loopy) : Loopy :=
  if v.fineY < 7 then v.setFineY (v.fineY + 1)
  else if v.coarseY = 29 then ((v.setFineY 0).setCoarseY 0).setNametableY (1 - v.nametableY)
  else if v.coarseY = 31 then (v.setFineY 0).setCoarseY 0
  else (v.setFineY 0).setCoarseY (v.coarseY + 1)

/-- `IncrementScrollY()` (R384). -/
def incrementScrollY (u : Ppu) : Ppu := if u.rendering then { u with vramAddr := nextRow u.vramAddr } else u

/-- `TransferAddressX()` (R385). -/
def transferAddressX (u : Ppu) : Ppu :=
  if u.rendering then
    { u with vramAddr := (u.vramAddr.setNametableX u.tramAddr.nametableX).setCoarseX u.tramAddr.coarseX }
  else u

/-- `TransferAddressY()` (R387). -/
def transferAddressY (u : Ppu) : Ppu :=
  if u.rendering then
    { u with vramAddr := ((u.vramAddr.setFineY u.tramAddr.fineY).setNametableY u.tramAddr.nametableY).setCoarseY
                            u.tramAddr.coarseY }
  else u

/-- The step of the fetch pipeline that the dot selects (R375). -/
def pipelineStep (d : Nat) (u : Ppu) : Ppu :=
  match (d - 1) % 8 with
  | 0 => fetchTileId (loadBackgroundShifters u)
  | 2 => fetchAttrib u
  | 4 => fetchPatternLow u
  | 6 => fetchPatternHigh u
  | 7 => incrementScrollX u
  | _ => u

/-! ### Sprites (R388 to R390) -/

/-- The height of a sprite (R388). -/
def Ppu.spriteHeight (u : Ppu) : Int := if u.tallSprites then 16 else 8

/-- Sprite `n` of OAM covers scanline `s` (R388). -/
def spriteCovers (u : Ppu) (s : Int) (n : Nat) : Bool :=
  let diff := s - ((u.oam.read (4 * n)).toNat : Int)
  decide (0 ≤ diff) && decide (diff < u.spriteHeight)

/-- Sprite `n` of OAM staged, its shifters cleared (R72, R388). -/
def stageSprite (oam : Memory) (n : Nat) : SpriteUnit :=
  { y := oam.read (4 * n), tile := oam.read (4 * n + 1), attr := oam.read (4 * n + 2), x := oam.read (4 * n + 3)
    shifterLo := 0, shifterHi := 0 }

/-- The sprites of OAM that cover scanline `s`, in OAM order (R388). -/
def matchingSprites (u : Ppu) (s : Int) : List Nat := (List.range 64).filter (spriteCovers u s)

/-- Sprite evaluation (R388): the first eight matches are staged, the other units are emptied, more than eight matches set the
overflow flag. -/
def evaluateSprites (s : Int) (u : Ppu) : Ppu :=
  let found := matchingSprites u s
  let staged := found.take Config.stagedSprites
  { u with
    sprites := staged.map (stageSprite u.oam) ++ List.replicate (Config.stagedSprites - staged.length) SpriteUnit.empty
    spriteCount := staged.length
    spriteZeroPossible := spriteCovers u s 0
    spriteOverflow := decide (Config.stagedSprites < found.length) }

/-- The pattern address of a staged sprite's row, low plane (R389). The row is an unbounded integer (R10), reduced with the
address to 14 bits (R351): it lies in the sprite unless the sprite size is changed between evaluation and fetch (log 22). -/
def spritePatternAddr (u : Ppu) (s : Int) (q : SpriteUnit) : PpuAddr :=
  let row : Int := s - (q.y.toNat : Int)
  let flip := q.attr.getLsbD 7
  if u.tallSprites then
    let top := decide (row < 8) != flip
    let tile := if top then q.tile &&& 0xFE#8 else (q.tile &&& 0xFE#8) + 1
    let r := if flip then 7 - row % 8 else row % 8
    (bitOf 14 q.tile 0 <<< 12) ||| (tile.setWidth 14 <<< 4) ||| BitVec.ofInt 14 r
  else
    let r := if flip then 7 - row else row
    (if u.patternSprite then 0x1000#14 else 0) ||| (q.tile.setWidth 14 <<< 4) ||| BitVec.ofInt 14 r

/-- A pattern byte as it goes into a shifter: reversed when the sprite is flipped horizontally (R389). -/
def SpriteUnit.orient (q : SpriteUnit) (b : Byte) : Byte := if q.attr.getLsbD 6 then reverse8 b else b

/-- One staged sprite with its pattern bytes fetched (R389). -/
def fetchSprite (u : Ppu) (s : Int) (q : SpriteUnit) : SpriteUnit :=
  let addr := spritePatternAddr u s q
  { q with shifterLo := q.orient (ppuRead u addr), shifterHi := q.orient (ppuRead u (addr + 8)) }

/-- Sprite pattern fetch for all staged sprites (R389). -/
def fetchSpritePatterns (s : Int) (u : Ppu) : Ppu := { u with sprites := mapFirst (fetchSprite u s) u.spriteCount u.sprites }

/-! ### Pixel composition (R391 to R396) -/

/-- A pixel: its 2-bit colour number and its palette number 0 to 7. -/
structure Pixel where
  color : BitVec 2
  palette : BitVec 3
  deriving DecidableEq, Repr

/-- Is a layer shown at this dot: its show flag, and its left-column flag for dots 1 to 8 (R392, R393). -/
def shownAt (show_ left : Bool) (d : Nat) : Bool := show_ && (left || decide (9 ≤ d))

/-- The background pixel (R392): bit `15 - fine_x` of the shifters. -/
def backgroundPixel (d : Nat) (u : Ppu) : Pixel :=
  if shownAt u.renderBackground u.renderBackgroundLeft d then
    let k := 15 - u.fineX.toNat
    { color := (bitOf 2 u.bgShifterPatternHi k <<< 1) ||| bitOf 2 u.bgShifterPatternLo k
      palette := (bitOf 3 u.bgShifterAttribHi k <<< 1) ||| bitOf 3 u.bgShifterAttribLo k }
  else { color := 0, palette := 0 }

/-- The colour number a sprite unit shows now: bit 7 of its two shifters (R393). -/
def SpriteUnit.color (q : SpriteUnit) : BitVec 2 := (bitOf 2 q.shifterHi 7 <<< 1) ||| bitOf 2 q.shifterLo 7

/-- The first of the first `n` units whose counter is 0 and whose pixel is opaque, with its index (R393). -/
def firstOpaque : Nat → Nat → List SpriteUnit → Option (Nat × SpriteUnit)
  | 0, _, _ => none
  | _ + 1, _, [] => none
  | n + 1, i, q :: l => if q.x = 0 ∧ q.color ≠ 0 then some (i, q) else firstOpaque n (i + 1) l

/-- The sprite unit whose pixel is drawn at this dot, if any (R393). -/
def foregroundUnit (d : Nat) (u : Ppu) : Option (Nat × SpriteUnit) :=
  if shownAt u.renderSprites u.renderSpritesLeft d then firstOpaque u.spriteCount 0 u.sprites else none

/-- The sprite pixel (R393); no unit gives the transparent pixel. -/
def foregroundPixel : Option (Nat × SpriteUnit) → Pixel
  | some (_, q) => { color := q.color, palette := (q.attr.extractLsb' 0 2).setWidth 3 + 4 }
  | none => { color := 0, palette := 0 }

/-- `fg_front` (R393): attribute bit 5 is 0. -/
def foregroundFront : Option (Nat × SpriteUnit) → Bool
  | some (_, q) => !q.attr.getLsbD 5
  | none => false

/-- The priority rule (R394). -/
def priorityPixel (bg fg : Pixel) (front : Bool) : Pixel :=
  if bg.color = 0 ∧ fg.color = 0 then { color := 0, palette := 0 }
  else if bg.color = 0 then fg
  else if fg.color = 0 then bg
  else if front then fg
  else bg

/-- The palette address of a pixel (R396). -/
def colorAddr (q : Pixel) : PpuAddr := 0x3F00#14 + (q.palette.setWidth 14 <<< 2) + q.color.setWidth 14

/-- Compose and write one pixel, and set the sprite-zero hit (R391 to R396). DESIGN CHOICE: both readings of
`sprite_zero_rendered` are kept: R393's, the pixel came from staged entry 0 (`i == 0`), and R46's, that entry is sprite 0 of OAM
besides, which is `sprite_zero_possible` (R388). The hit is the same with either (R395; log 25). -/
def composePixel (s : Int) (d : Nat) (u : Ppu) : Ppu :=
  let bg := backgroundPixel d u
  let unit := foregroundUnit d u
  let fg := foregroundPixel unit
  let rendered := unit.any fun q => q.1 == 0
  let hit := bg.color != 0 && fg.color != 0 && u.spriteZeroPossible && rendered && u.renderBackground && u.renderSprites
  { u with
    spriteZeroRendered := rendered
    spriteZeroChosen := rendered && u.spriteZeroPossible
    spriteZeroHit := u.spriteZeroHit || hit
    frameBuffer := u.frameBuffer.write (Frame.cell (d - 1) s.toNat)
      ((ppuRead u (colorAddr (priorityPixel bg fg (foregroundFront unit)))).setWidth 6) }

/-! ### The phases of one dot (R372) -/

/-- Phase 1, the dot-0 skip (R373). -/
def skipDotZero (skip : Bool) (u : Ppu) : Ppu :=
  if skip = true ∧ u.scanline = 0 ∧ u.dot = 0 then { u with dot := 1 } else u

/-- Phase 2, the start of the pre-render line (R374). -/
def startPreRender (u : Ppu) : Ppu :=
  { u with verticalBlank := false, spriteOverflow := false, spriteZeroHit := false
           sprites := mapFirst (fun q => { q with shifterLo := 0, shifterHi := 0 }) Config.stagedSprites u.sprites }

/-- The fetch window (R375). -/
def inFetchWindow (d : Nat) : Bool := (decide (2 ≤ d) && decide (d ≤ 257)) || (decide (321 ≤ d) && decide (d ≤ 337))

/-- Apply a phase when its condition holds. -/
def phase (c : Bool) (f : Ppu → Ppu) (u : Ppu) : Ppu := if c then f u else u

/-- Phases 2 to 9 and 11, on the scanlines that render: -1 to 239 (R372). -/
def renderLine (s : Int) (d : Nat) (u : Ppu) : Ppu :=
  let u := phase (decide (s = -1) && decide (d = 1)) startPreRender u
  let u := phase (inFetchWindow d) (fun u => pipelineStep d (stepSprites d (shiftBackground u))) u
  let u := phase (decide (d = 256)) incrementScrollY u
  let u := phase (decide (d = 257)) (fun u => transferAddressX (loadBackgroundShifters u)) u
  let u := phase (decide (d = 338) || decide (d = 340)) fetchTileId u
  let u := phase (decide (s = -1) && decide (280 ≤ d) && decide (d ≤ 304)) transferAddressY u
  let u := phase (decide (d = 257)) (evaluateSprites s) u
  let u := phase (decide (d = 340)) (fetchSpritePatterns s) u
  phase (decide (0 ≤ s) && decide (1 ≤ d) && decide (d ≤ 256)) (composePixel s d) u

/-- Does phase 10 report "frame complete" at this dot (R397)? -/
def vblankReports (s : Int) (d : Nat) (u : Ppu) : Bool := decide (s = 241) && decide (d = 1) && u.nmiEnable

/-- Phase 10: vertical blank begins, and the NMI is requested if it is enabled (R397). -/
def startVblank (u : Ppu) : Ppu := { u with verticalBlank := true, nmiPending := u.nmiPending || u.nmiEnable }

/-- Phases 2 to 11 (R372): the rendering lines, the first vertical-blank line, and the idle lines (R398). -/
def dotWork (s : Int) (d : Nat) (u : Ppu) : Ppu :=
  if -1 ≤ s ∧ s ≤ 239 then renderLine s d u else phase (decide (s = 241) && decide (d = 1)) startVblank u

/-- `EndOfFrame()` (R399). -/
def endOfFrame (u : Ppu) : Ppu := { u with completedFrame := u.frameBuffer, frameBuffer := [], scanline := -1 }

/-- Does the counter advance end the frame (R371)? -/
def endsFrame (u : Ppu) : Bool := decide (341 ≤ u.dot + 1) && decide (261 ≤ u.scanline + 1)

/-- Phase 12, the counter advance (R371). -/
def advanceCounters (u : Ppu) : Ppu :=
  if 341 ≤ u.dot + 1 then
    if 261 ≤ u.scanline + 1 then endOfFrame { u with dot := 0, scanline := u.scanline + 1 }
    else { u with dot := 0, scanline := u.scanline + 1 }
  else { u with dot := u.dot + 1 }

/-- The PPU after phases 1 to 11 of one dot (R372). -/
def dotBody (skip : Bool) (u : Ppu) : Ppu :=
  let u := skipDotZero skip u
  dotWork u.scanline u.dot u

/-- Does `Dot()` return true: the report of phase 10 or the end of the frame (R370, R401)? Phases 2 to 11 change neither
`control` nor the counters (R402), so both are decided by the PPU after the dot-0 skip. -/
def dotReports (skip : Bool) (u : Ppu) : Bool :=
  let u1 := skipDotZero skip u
  vblankReports u1.scanline u1.dot u1 || endsFrame u1

/-- The PPU after `Dot()` (R372). -/
def dot (skip : Bool) (u : Ppu) : Ppu := advanceCounters (dotBody skip u)

/-- The PPU after `PpuTick(n)` (R370). -/
def ppuTick (skip : Bool) : Nat → Ppu → Ppu
  | 0, u => u
  | n + 1, u => ppuTick skip n (dot skip u)

/-- Does one of the dots of `PpuTick(n)` report "frame complete" (R370)? -/
def ppuTickReports (skip : Bool) : Nat → Ppu → Bool
  | 0, _ => false
  | n + 1, u => dotReports skip u || ppuTickReports skip n (dot skip u)

end Sys2Proof.Machine
end

