-- ==== Sys2Proof/Machine/PpuRegisters.lean ====
section
/-! DEFINITION. The PPU's CPU-facing port (47_ppu_registers): what a CPU access to one of the eight registers does, and the bulk
OAM write of DMA. -/

namespace Sys2Proof.Machine

/-- The 14 bits of the VRAM pointer that address PPU memory (R351). -/
def Ppu.dataAddr (u : Ppu) : PpuAddr := u.vramAddr.setWidth 14

/-- `VramStep()` (R347). -/
def vramStep (u : Ppu) : Ppu := { u with vramAddr := u.vramAddr + (if u.incrementMode then 32 else 1) }

/-- One byte into OAM at `oam_addr`, which steps modulo 256 (R338, R348). -/
def oamPut (u : Ppu) (v : Byte) : Ppu := { u with oam := u.oam.write u.oamAddr.toNat v, oamAddr := u.oamAddr + 1 }

/-- `OamDmaWrite(buf)` (R348). -/
def oamDmaWrite : List Byte → Ppu → Ppu
  | [], u => u
  | v :: buf, u => oamDmaWrite buf (oamPut u v)

/-- Write of Control (R332). -/
def writeControl (u : Ppu) (v : Byte) : Ppu :=
  { u with control := v, tramAddr := (u.tramAddr.setNametableX (bitOf 1 v 0)).setNametableY (bitOf 1 v 1) }

/-- Write of Mask (R333). -/
def writeMask (u : Ppu) (v : Byte) : Ppu := { u with mask := v }

/-- The two writes of Scroll (R340 to R342). -/
def writeScroll (u : Ppu) (v : Byte) : Ppu :=
  if u.writeToggle then
    { u with tramAddr := (u.tramAddr.setFineY (v.extractLsb' 0 3)).setCoarseY (v.extractLsb' 3 5), writeToggle := false }
  else
    { u with fineX := v.extractLsb' 0 3, tramAddr := u.tramAddr.setCoarseX (v.extractLsb' 3 5), writeToggle := true }

/-- The two writes of Address (R340, R343, R344). -/
def writeAddress (u : Ppu) (v : Byte) : Ppu :=
  if u.writeToggle then
    let t : Loopy := (u.tramAddr &&& 0x7F00#15) ||| v.setWidth 15
    { u with tramAddr := t, vramAddr := t, writeToggle := false }
  else
    { u with tramAddr := ((v &&& 0x3F#8).setWidth 15 <<< 8) ||| (u.tramAddr &&& 0x00FF#15), writeToggle := true }

/-- Write of Data (R345). -/
def writeData (u : Ppu) (v : Byte) : Ppu := vramStep (ppuWrite u u.dataAddr v)

/-- `PpuRegWrite(r, v)` (R331); a write of Status is ignored (R334). -/
def ppuRegWrite (u : Ppu) (r : BitVec 3) (v : Byte) : Ppu :=
  if r = 0 then writeControl u v
  else if r = 1 then writeMask u v
  else if r = 2 then u
  else if r = 3 then { u with oamAddr := v }
  else if r = 4 then oamPut u v
  else if r = 5 then writeScroll u v
  else if r = 6 then writeAddress u v
  else writeData u v

/-- The value a read of Status returns (R336). -/
def statusValue (u : Ppu) : Byte := (u.status &&& 0xE0#8) ||| (u.dataBuffer &&& 0x1F#8)

/-- The side effect of a read of Status (R336). -/
def readStatus (u : Ppu) : Ppu := { u with verticalBlank := false, writeToggle := false }

/-- The value a read of Data returns: the buffer below `$3F00`, the palette byte itself from there on (R346). -/
def dataValue (u : Ppu) : Byte := if 0x3F00#14 ≤ u.dataAddr then ppuRead u u.dataAddr else u.dataBuffer

/-- The side effect of a read of Data (R346). -/
def readData (u : Ppu) : Ppu := vramStep { u with dataBuffer := ppuRead u u.dataAddr }

/-- The value `PpuRegRead(r)` returns; the write-only registers give `PPU_WO_READ` (R331, R335, R336, R339, R346). -/
def ppuRegValue (woRead : Byte) (u : Ppu) (r : BitVec 3) : Byte :=
  if r = 2 then statusValue u
  else if r = 4 then u.oam.read u.oamAddr.toNat
  else if r = 7 then dataValue u
  else woRead

/-- The PPU after `PpuRegRead(r)`: only Status and Data have a side effect (R86, R335, R339). -/
def ppuRegAfterRead (u : Ppu) (r : BitVec 3) : Ppu :=
  if r = 2 then readStatus u else if r = 7 then readData u else u

end Sys2Proof.Machine
end

