-- ==== Sys2Proof/Machine/Bus.lean ====
section
/-! DEFINITION. The bus router (49_bus_router, 20_memory): the CPU's address dispatch, OAM DMA, the joypad port, the CPU-PPU
synchroniser with the host's callback, and the NMI poll. -/

namespace Sys2Proof.Machine

/-- How an instruction or an access ends. -/
abbrev Result := Host.Outcome State Fault Refusal

/-- Go on from a next state; a fault or a refusal ends the step (R15, R461). -/
def andThen (r : Result) (f : State → Result) : Result :=
  match r with
  | .next s => f s
  | .fault e => .fault e
  | .refused e => .refused e

/-! ### Cells -/

/-- The `ram` cell of an address of the RAM window (R75). -/
def ramCell (a : Addr) : Nat := a.toNat % Config.ramBytes

/-- The `prg_rom` offset of an address of the ROM window; a 16 KiB image fills the window twice (R79). -/
def prgOffset (size : PrgSize) (a : Addr) : Nat := (a.toNat - 0x8000) % size.bytes

/-- The PPU register number of an address of the PPU window (R76, R330). -/
def ppuRegister (a : Addr) : BitVec 3 := a.extractLsb' 0 3

/-- A RAM cell written (R75). -/
def writeRam (s : State) (a : Addr) (v : Byte) : State := { s with ram := s.ram.write (ramCell a) v }

/-! ### Joypad 1 (R440 to R442) -/

/-- The value `JoypadRead()` returns (R441). -/
def joypadValue (j : Joypad) : Byte := if 7 < j.index then 0x01 else bitOf 8 j.buttons j.index

/-- The joypad after `JoypadRead()` (R441). -/
def joypadAfterRead (j : Joypad) : Joypad :=
  if 7 < j.index then j else if j.strobe then j else { j with index := j.index + 1 }

/-- `JoypadWrite(v)` (R440). -/
def joypadWrite (j : Joypad) (v : Byte) : Joypad :=
  if v.getLsbD 0 then { j with strobe := true, index := 0 } else { j with strobe := false }

/-! ### Reads (R420) -/

/-- The value `MemRead(a, 1)` returns (R74, R420). -/
def peek (s : State) (a : Addr) : Byte :=
  if a ≤ 0x1FFF#16 then s.ram.read (ramCell a)
  else if a ≤ 0x3FFF#16 then ppuRegValue s.params.ppuWoRead s.ppu (ppuRegister a)
  else if a = 0x4016#16 then joypadValue s.joypad
  else if a = 0x4017#16 then 0x00
  else if a ≤ 0x4017#16 then 0xFF
  else if a ≤ 0x7FFF#16 then s.params.unmappedRead
  else s.prgRom.read (prgOffset s.prgSize a)

/-- The state after `MemRead(a, 1)`: the side effects of R86. -/
def afterRead (s : State) (a : Addr) : State :=
  if a ≤ 0x1FFF#16 then s
  else if a ≤ 0x3FFF#16 then { s with ppu := ppuRegAfterRead s.ppu (ppuRegister a) }
  else if a = 0x4016#16 then { s with joypad := joypadAfterRead s.joypad }
  else s

/-- An address whose read changes state (R86): Status and Data of the PPU window and their mirrors, and joypad 1. -/
def sideEffectRead (a : Addr) : Bool :=
  (decide (0x2000#16 ≤ a) && decide (a ≤ 0x3FFF#16) && (ppuRegister a == 2 || ppuRegister a == 7)) || a == 0x4016#16

/-- The value of a two-byte read at addresses without side effects, the low byte first, wrapping at `$FFFF` (R422, D12). -/
def peek16 (s : State) (a : Addr) : Addr := wordOf (peek s (a + 1)) (peek s a)

/-! ### OAM DMA (R436) -/

/-- The values of `n` reads at ascending addresses, each made in the state the one before it left (R436). -/
def blockValues : Nat → State → Addr → List Byte
  | 0, _, _ => []
  | n + 1, s, a => peek s a :: blockValues n (afterRead s a) (a + 1)

/-- The state after those reads. -/
def afterBlock : Nat → State → Addr → State
  | 0, s, _ => s
  | n + 1, s, a => afterBlock n (afterRead s a) (a + 1)

/-- A buffer handed to the PPU's bulk OAM write (R348). -/
def writeOam (buf : List Byte) (s : State) : State := { s with ppu := oamDmaWrite buf s.ppu }

/-- `OamDma(v)`: 256 bus reads of page `v`, then the bulk OAM write (R97, R436). -/
def oamDma (s : State) (v : Byte) : State :=
  writeOam (blockValues Config.dmaBytes s (wordOf v 0)) (afterBlock Config.dmaBytes s (wordOf v 0))

/-! ### Writes (R421) -/

/-- `MemWrite(a, 1, v)` (R74, R421); a write to the ROM window is a fault (R81). -/
def busWrite (s : State) (a : Addr) (v : Byte) : Result :=
  if a ≤ 0x1FFF#16 then .next (writeRam s a v)
  else if a ≤ 0x3FFF#16 then .next { s with ppu := ppuRegWrite s.ppu (ppuRegister a) v }
  else if a = 0x4014#16 then .next (oamDma s v)
  else if a = 0x4016#16 then .next { s with joypad := joypadWrite s.joypad v }
  else if a ≤ 0x7FFF#16 then .next s
  else .fault (.romWrite a v)

/-- `MemWrite(a, 2, v)`: the low byte, then the high byte (R422). No instruction uses it. -/
def busWrite16 (s : State) (a v : Addr) : Result :=
  andThen (busWrite s a (loByte v)) fun s1 => busWrite s1 (a + 1) (hiByte v)

/-- The state after `MemRead(a, 2)`; its value is that of the two reads in order (R422). -/
def afterRead16 (s : State) (a : Addr) : State := afterRead (afterRead s a) (a + 1)

/-- The value of `MemRead(a, 2)` at any address: the second read is made in the state the first left (R422). -/
def read16 (s : State) (a : Addr) : Addr := wordOf (peek (afterRead s a) (a + 1)) (peek s a)

/-! ### The synchroniser (R430 to R433) -/

/-- The host's per-frame callback: it may assign `buttons` and changes nothing else (R431, R432). The next of its inputs is
taken; with none left it leaves `buttons` as they are (log 9). -/
def hostCallback (s : State) : State :=
  match s.hostInputs with
  | [] => { s with callbacks := s.callbacks + 1 }
  | b :: rest => { s with callbacks := s.callbacks + 1, joypad := { s.joypad with buttons := b }, hostInputs := rest }

/-- The host is called when the PPU has reported "frame complete" (R431). -/
def notifyHost (report : Bool) (s : State) : State := if report then hostCallback s else s

/-- `BusTick(n)`: `n` cycles of time, three dots each; a frame report calls the host after the last dot (R430, R431). -/
def busTick (n : Nat) (s : State) : State :=
  notifyHost (ppuTickReports s.params.skipDot0 (Config.dotsPerCycle * n) s.ppu)
    { s with busCycles := s.busCycles + n, ppu := ppuTick s.params.skipDot0 (Config.dotsPerCycle * n) s.ppu }

/-- The state after `PollNmi()`, whose value is `ppu.nmiPending`: the flag is taken (R433). -/
def pollNmi (s : State) : State := { s with ppu := { s.ppu with nmiPending := false } }

end Sys2Proof.Machine
end

