-- ==== Sys2Proof/Machine/Flags.lean ====
section
/-! DEFINITION. The status register's flags (10_state R24, R30) and every flag computation of the instruction set (42 R210, R216,
R220; 43 R240 to R244; 45 R271, R273). -/

namespace Sys2Proof.Machine

/-- The eight flags of `P` (R24). -/
inductive Flag where
  | c | z | i | d | b | u | v | n
  deriving DecidableEq, Repr

/-- The bit of a flag in `P` (R24, D1). -/
def Flag.bit : Flag → Nat
  | .c => 0
  | .z => 1
  | .i => 2
  | .d => 3
  | .b => 4
  | .u => 5
  | .v => 6
  | .n => 7

/-- One flag of a status byte. -/
def flagOf (p : Byte) (f : Flag) : Bool := p.getLsbD f.bit

/-- A status byte with one flag set to a value and the others kept (R12). -/
def withFlag (p : Byte) (f : Flag) (b : Bool) : Byte :=
  if b then p ||| (1#8 <<< f.bit) else p &&& ~~~(1#8 <<< f.bit)

/-- `P.f` (R12). -/
def State.flag (s : State) (f : Flag) : Bool := flagOf s.p f

/-- `P.f <- b` (R12). -/
def State.setFlag (s : State) (f : Flag) (b : Bool) : State := { s with p := withFlag s.p f b }

/-- `SetZN(v)` on a status byte (R12). -/
def zn (p : Byte) (v : Byte) : Byte := withFlag (withFlag p .z (v == 0)) .n (v.getLsbD 7)

/-- `SetZN(v)` (R12). -/
def State.setZN (s : State) (v : Byte) : State := { s with p := zn s.p v }

/-- The sum `a + m + P.C` as an unbounded integer (R210). -/
def addSum (a m : Byte) (carry : Bool) : Nat := a.toNat + m.toNat + carry.toNat

/-- The result of `AddWithCarry` (R210). -/
def addResult (a m : Byte) (carry : Bool) : Byte := BitVec.ofNat 8 (addSum a m carry)

/-- The overflow of `AddWithCarry` (R210). -/
def addOverflow (a m r : Byte) : Bool := ((m ^^^ r) &&& (r ^^^ a) &&& 0x80#8) != 0

/-- The status byte after `AddWithCarry(m)` on accumulator `a` (R210); the decimal flag is not consulted (R227). -/
def addStatus (p a m : Byte) : Byte :=
  let carry := flagOf p .c
  let r := addResult a m carry
  zn (withFlag (withFlag p .c (decide (0xFF < addSum a m carry))) .v (addOverflow a m r)) r

/-- The status byte after `Compare(v, m)` (R216). -/
def compareStatus (p v m : Byte) : Byte := zn (withFlag p .c (decide (m ≤ v))) (v - m)

/-- The status byte after BIT (R220): Z from the AND, N and V from bits 7 and 6 of the operand. -/
def bitStatus (p a m : Byte) : Byte :=
  withFlag (withFlag (withFlag p .z ((a &&& m) == 0)) .n (m.getLsbD 7)) .v (m.getLsbD 6)

/-- The four shifts and rotates by one bit: result and carry out, from the value and the old carry (R240). -/
inductive Shift where
  | asl | lsr | rol | ror
  deriving DecidableEq, Repr

/-- The result of a shift (R241 to R244). -/
def Shift.result : Shift → Byte → Bool → Byte
  | .asl, v, _ => v <<< 1
  | .lsr, v, _ => v >>> 1
  | .rol, v, carry => (v <<< 1) ||| (BitVec.ofBool carry).setWidth 8
  | .ror, v, carry => (v >>> 1) ||| ((BitVec.ofBool carry).setWidth 8 <<< 7)

/-- The carry out of a shift (R241 to R244). -/
def Shift.carry : Shift → Byte → Bool
  | .asl, v | .rol, v => v.getLsbD 7
  | .lsr, v | .ror, v => v.getLsbD 0

/-- The copy of `P` that PHP and BRK push: break and break2 set (R26, R271, R282). -/
def pushedWithBreak (p : Byte) : Byte := p ||| 0x30#8

/-- The copy of `P` that NMI entry pushes, and what PLP and RTI make of a pulled byte: break clear, break2 set (R26, R273, R283,
R470). -/
def withoutBreak (p : Byte) : Byte := (p &&& 0xEF#8) ||| 0x20#8

end Sys2Proof.Machine
end

