-- ==== Sys2Proof/Machine/Ops.lean ====
section
/-! DEFINITION. The named operations the meanings are written with: register writes (10_state R30), the stack (40 R176 to R179), the
end of an instruction (40 R155, R156), taking an interrupt and returning from one (60 R470, R472, R474; 45 R282, R283). -/

namespace Sys2Proof.Machine

/-! ### Register writes: `WriteReg` recomputes Z and N; a write of `SP` or of `P` does not (R12, R30) -/

def State.writeA (s : State) (v : Byte) : State := { s with a := v, p := zn s.p v }
def State.writeX (s : State) (v : Byte) : State := { s with x := v, p := zn s.p v }
def State.writeY (s : State) (v : Byte) : State := { s with y := v, p := zn s.p v }
def State.writeSp (s : State) (v : Byte) : State := { s with sp := v }
def State.writeP (s : State) (v : Byte) : State := { s with p := v }

/-- `AddWithCarry(m)` (R210). -/
def State.addWithCarry (s : State) (m : Byte) : State :=
  { s with a := addResult s.a m (s.flag .c), p := addStatus s.p s.a m }

/-- `Compare(v, m)` (R216). -/
def State.compare (s : State) (v m : Byte) : State := { s with p := compareStatus s.p v m }

/-! ### The stack (R176 to R179) -/

/-- The address of the stack cell that a stack pointer designates (R23). -/
def stackAddr (sp : Byte) : Addr := 0x0100#16 + zext16 sp

/-- `Push8(v)`: store, then decrement (R176). The cell is RAM, so the store cannot fault (R462). -/
def push8 (s : State) (v : Byte) : State := { writeRam s (stackAddr s.sp) v with sp := s.sp - 1 }

/-- `Push16(v)`: the high byte first (R178). -/
def push16 (s : State) (v : Addr) : State := push8 (push8 s (hiByte v)) (loByte v)

/-- The byte `Pull8()` returns: the cell above the stack pointer (R177). -/
def pulled8 (s : State) : Byte := peek s (stackAddr (s.sp + 1))

/-- The state after `Pull8()` (R177). -/
def pull8 (s : State) : State := { s with sp := s.sp + 1 }

/-- The word `Pull16()` returns (R179). -/
def pulled16 (s : State) : Addr := wordOf (pulled8 (pull8 s)) (pulled8 s)

/-- The state after `Pull16()` (R179). -/
def pull16 (s : State) : State := pull8 (pull8 s)

/-! ### The end of an instruction

During an instruction `pc` is `pc0 +16 1` (R27, R153). The whole cost is added to the pending counter, which is 0 when an
instruction begins (R150, R155); `tick` gives the same number to `BusTick`. -/

/-- The generic advance past the operand bytes, and the cost (R155, R156). -/
def complete (length cost : Nat) (s : State) : State :=
  { s with pc := s.pc + BitVec.ofNat 16 (length - 1), cycles := s.cycles + cost }

/-- Where `pc` is after an instruction of this length has set it to a target: the target (R156), or, under the parameter
`PC_ADVANCE_BY_VALUE_COMPARE`, past the operand bytes when the target is `pc0 +16 1` (U5, log 16). -/
def landing (length : Nat) (target : Addr) (s : State) : Addr :=
  if s.params.pcAdvanceByValueCompare = true ∧ target = s.pc then target + BitVec.ofNat 16 (length - 1) else target

/-- The end of an instruction that sets `pc` (R156); `pc` is still `pc0 +16 1` in `s`. -/
def jumpTo (length cost : Nat) (target : Addr) (s : State) : State :=
  { s with pc := landing length target s, cycles := s.cycles + cost }

/-- An instruction of one byte and two cycles that makes no bus access. -/
def implied (f : State → State) (s : State) : Result := .next (complete 1 2 (f s))

/-! ### Interrupts -/

/-- Taking an interrupt: the return address and a copy of the status are pushed, `P.I` is set and `pc` is loaded from a vector
(R282, R470, R472). The vector lies in PRG ROM, which nothing changes, so when it is read does not matter (log 12). -/
def takeInterrupt (returnTo : Addr) (status : Byte) (vector : Addr) (s : State) : State :=
  let s1 := (push8 (push16 s returnTo) status).setFlag .i true
  { s1 with pc := peek16 s1 vector }

/-- The return from one: the status is pulled, break cleared and break2 set, then `pc`, with no 1 added (R283, R474). -/
def returnFromInterrupt (s : State) : State :=
  let s1 := (pull8 s).writeP (withoutBreak (pulled8 s))
  { pull16 s1 with pc := pulled16 s1 }

/-- `InterruptNMI()` (R470). -/
def interruptNmi (s : State) : State :=
  let s1 := takeInterrupt s.pc (withoutBreak s.p) Config.nmiVector s
  busTick Config.nmiCycles { s1 with cycles := s1.cycles + Config.nmiCycles }

/-- `run <- faulted(F)` (R29, R461): what a driver records when a step answers with a fault; only `cpuReset` leaves it.
DESIGN CHOICE: there is nothing to record for a refusal (log 26). -/
def State.raise (s : State) (reason : Fault) : State := { s with run := .faulted reason }

end Sys2Proof.Machine
end

