-- ==== Sys2Proof/Syntax.lean ====
section
/-! DEFINITION. Instructions as syntax: one constructor per instruction of spec/opcode_table.json, its operand form an
argument (30_encoding R122, R130). Rows of one mnemonic and one format that differ in the opcode byte only (JAM, ANC, SHA and
the unofficial NOPs) carry that byte, so that every row of the table is a term of its own. -/

namespace Sys2Proof

/-- The operand formats of data instructions with their operand bytes (R122, R123). `REL`, `IND` and the absolute operand of
JMP and JSR are fetched by the instruction itself (R170, R171) and are arguments of those constructors. -/
inductive Operand where
  /-- `ACC`: register A; no operand byte. -/
  | acc
  /-- `IMM`: `#$nn`. -/
  | imm (value : Byte)
  /-- `ZP`: `$nn`. -/
  | zp (base : Byte)
  /-- `ZPX`: `$nn,X`. -/
  | zpx (base : Byte)
  /-- `ZPY`: `$nn,Y`. -/
  | zpy (base : Byte)
  /-- `ABS`: `$nnnn`. -/
  | abs (base : Addr)
  /-- `ABX`: `$nnnn,X`. -/
  | abx (base : Addr)
  /-- `ABY`: `$nnnn,Y`. -/
  | aby (base : Addr)
  /-- `IZX`: `($nn,X)`. -/
  | izx (base : Byte)
  /-- `IZY`: `($nn),Y`. -/
  | izy (base : Byte)
  deriving DecidableEq, Repr

/-- The formats of `Operand` without their bytes (R122). -/
inductive Format where
  | acc | imm | zp | zpx | zpy | abs | abx | aby | izx | izy
  deriving DecidableEq, Repr

/-- The format of an operand. -/
def Operand.format : Operand → Format
  | .acc => .acc
  | .imm _ => .imm
  | .zp _ => .zp
  | .zpx _ => .zpx
  | .zpy _ => .zpy
  | .abs _ => .abs
  | .abx _ => .abx
  | .aby _ => .aby
  | .izx _ => .izx
  | .izy _ => .izy

/-- The instructions (R130, R132, R133). -/
inductive Instr where
  -- loads, stores, transfers (41)
  | lda (o : Operand)
  | ldx (o : Operand)
  | ldy (o : Operand)
  | sta (o : Operand)
  | stx (o : Operand)
  | sty (o : Operand)
  | tax
  | tay
  | txa
  | tya
  | tsx
  | txs
  -- arithmetic and logic (42)
  | adc (o : Operand)
  | sbc (o : Operand)
  | and (o : Operand)
  | ora (o : Operand)
  | eor (o : Operand)
  | cmp (o : Operand)
  | cpx (o : Operand)
  | cpy (o : Operand)
  | bit (o : Operand)
  | inc (o : Operand)
  | dec (o : Operand)
  | inx
  | iny
  | dex
  | dey
  -- shifts and rotates (43)
  | asl (o : Operand)
  | lsr (o : Operand)
  | rol (o : Operand)
  | ror (o : Operand)
  -- control flow (44)
  | bcc (disp : Byte)
  | bcs (disp : Byte)
  | beq (disp : Byte)
  | bne (disp : Byte)
  | bmi (disp : Byte)
  | bpl (disp : Byte)
  | bvc (disp : Byte)
  | bvs (disp : Byte)
  | jmp (target : Addr)
  | jmpInd (pointer : Addr)
  | jsr (target : Addr)
  | rts
  -- stack, flags, system (45)
  | pha
  | php
  | pla
  | plp
  | clc
  | sec
  | cli
  | sei
  | clv
  | cld
  | sed
  | nop
  | brk
  | rti
  -- unofficial, admitted (46)
  | lax (o : Operand)
  | sax (o : Operand)
  | dcp (o : Operand)
  | isb (o : Operand)
  | slo (o : Operand)
  | rla (o : Operand)
  | sre (o : Operand)
  | rra (o : Operand)
  | sbcEB (value : Byte)
  | nopImplied (code : Byte)
  | nopOperand (code : Byte) (o : Operand)
  -- trapped (R312): no operand byte is ever read
  | jam (code : Byte)
  | anc (code : Byte)
  | alr
  | arr
  | ane
  | sha (code : Byte)
  | tas
  | shy
  | shx
  | lxa
  | las
  | sbx
  deriving DecidableEq, Repr

end Sys2Proof
end

