-- ==== Sys2Proof/Machine/Operands.lean ====
section
/-! DEFINITION. Operand forms (40_cpu_step_addressing R160 to R174): effective addresses, page crossing, costs, and the three shapes
of a memory instruction: one that reads, one that stores, one that reads, modifies and writes. Everything here is evaluated with
`pc = pc0 +16 1`. -/

namespace Sys2Proof

/-- The length of an instruction of this format, opcode byte included (R122). -/
def Operand.length : Operand → Nat
  | .acc => 1
  | .imm _ | .zp _ | .zpx _ | .zpy _ | .izx _ | .izy _ => 2
  | .abs _ | .abx _ | .aby _ => 3

/-- Base cycles of the instructions that only read (R126, R531). -/
def Operand.readCycles : Operand → Nat
  | .acc | .imm _ => 2
  | .zp _ => 3
  | .zpx _ | .zpy _ | .abs _ | .abx _ | .aby _ => 4
  | .izx _ => 6
  | .izy _ => 5

/-- Cycles of the stores, which take no bonus (R126, R174). -/
def Operand.storeCycles : Operand → Nat
  | .acc | .imm _ => 2
  | .zp _ => 3
  | .zpx _ | .zpy _ | .abs _ => 4
  | .abx _ | .aby _ => 5
  | .izx _ | .izy _ => 6

/-- Cycles of the read-modify-write instructions, which take no bonus (R126, R174, R300). -/
def Operand.rmwCycles : Operand → Nat
  | .acc | .imm _ => 2
  | .zp _ => 5
  | .zpx _ | .zpy _ | .abs _ => 6
  | .abx _ | .aby _ => 7
  | .izx _ | .izy _ => 8

end Sys2Proof

namespace Sys2Proof.Machine

/-- `(EA, crossed)` (R160 to R168). -/
structure Effective where
  addr : Addr
  crossed : Bool
  deriving DecidableEq, Repr

/-- The pointer at a zero-page address; its high byte wraps within page 0 (R167, R168, D11). -/
def zeroPagePointer (s : State) (ptr : Byte) : Addr := wordOf (peek s (zext16 (ptr + 1))) (peek s (zext16 ptr))

/-- An address indexed with 16-bit wrap, and whether that crossed a page (R165, R166, R168, R172). -/
def indexed (base : Addr) (index : Byte) : Effective :=
  { addr := base + zext16 index, crossed := pageCrossed base (base + zext16 index) }

/-- `EA(format)`; the accumulator has no address (R160 to R169). -/
def effective (o : Operand) (s : State) : Option Effective :=
  match o with
  | .acc => none
  | .imm _ => some { addr := s.pc, crossed := false }
  | .zp b => some { addr := zext16 b, crossed := false }
  | .zpx b => some { addr := zext16 (b + s.x), crossed := false }
  | .zpy b => some { addr := zext16 (b + s.y), crossed := false }
  | .abs a => some { addr := a, crossed := false }
  | .abx a => some (indexed a s.x)
  | .aby a => some (indexed a s.y)
  | .izx b => some { addr := zeroPagePointer s (b + s.x), crossed := false }
  | .izy b => some (indexed (zeroPagePointer s b) s.y)

/-- The page-cross bonus (R173). -/
def bonus (e : Effective) : Nat := if e.crossed then 1 else 0

/-- The operand value of a reading instruction: the immediate byte, or what the bus gives at the effective address. The
immediate byte is the instruction's own operand byte at `pc0 +16 1` (R160). -/
def operandValue (o : Operand) (e : Effective) (s : State) : Byte :=
  match o with
  | .imm v => v
  | _ => peek s e.addr

/-- The state after that read. An immediate byte is never at an address whose read has a side effect (U7). -/
def afterOperand (o : Operand) (e : Effective) (s : State) : State :=
  match o with
  | .imm _ => s
  | _ => afterRead s e.addr

/-- `AddressingMisuse` with the opcode byte of the instruction in hand (R169, R460, log 11). -/
def misuse (s : State) : Result := .fault (.addressingMisuse (peek s (s.pc - 1)))

/-- A reading instruction: read the operand, do `f` with it, add the page-cross bonus (R173, R174). -/
def readOperand (o : Operand) (f : Byte → State → State) (s : State) : Result :=
  match effective o s with
  | none => misuse s
  | some e => .next (complete o.length (o.readCycles + bonus e) (f (operandValue o e s) (afterOperand o e s)))

/-- A storing instruction: write `v` at the effective address, without reading it (R193). -/
def storeOperand (o : Operand) (v : Byte) (s : State) : Result :=
  match effective o s with
  | none => misuse s
  | some e => andThen (busWrite s e.addr v) fun s1 => .next (complete o.length o.storeCycles s1)

/-- A read-modify-write instruction: one read, one write of the result `r` of the value read, then `f` with the value read and
the result (R159, R221, R240, R300, D16). -/
def modifyOperand (o : Operand) (r : Byte → Byte) (f : Byte → Byte → State → State) (s : State) : Result :=
  match effective o s with
  | none => misuse s
  | some e =>
    let m := operandValue o e s
    andThen (busWrite (afterOperand o e s) e.addr (r m)) fun s1 => .next (complete o.length o.rmwCycles (f m (r m) s1))

end Sys2Proof.Machine
end

