-- ==== Sys2Proof/Machine/Arithmetic.lean ====
section
/-! DEFINITION. Arithmetic, logic, comparisons, increments and decrements (42_arithmetic_logic R210 to R227). Every meaning is evaluated with `pc = pc0 +16 1` and leaves
`BusTick` to `tick`. -/

namespace Sys2Proof.Machine

/-- ADC (R211). -/
def execAdc (o : Operand) (s : State) : Result := readOperand o (fun m s => s.addWithCarry m) s

/-- SBC: `AddWithCarry` of the complement (R212). -/
def execSbc (o : Operand) (s : State) : Result := readOperand o (fun m s => s.addWithCarry (~~~m)) s

/-- AND (R213). -/
def execAnd (o : Operand) (s : State) : Result := readOperand o (fun m s => s.writeA (s.a &&& m)) s

/-- ORA (R214). -/
def execOra (o : Operand) (s : State) : Result := readOperand o (fun m s => s.writeA (s.a ||| m)) s

/-- EOR (R215). -/
def execEor (o : Operand) (s : State) : Result := readOperand o (fun m s => s.writeA (s.a ^^^ m)) s

/-- CMP (R217). -/
def execCmp (o : Operand) (s : State) : Result := readOperand o (fun m s => s.compare s.a m) s

/-- CPX (R218). -/
def execCpx (o : Operand) (s : State) : Result := readOperand o (fun m s => s.compare s.x m) s

/-- CPY (R219). -/
def execCpy (o : Operand) (s : State) : Result := readOperand o (fun m s => s.compare s.y m) s

/-- BIT (R220). -/
def execBit (o : Operand) (s : State) : Result := readOperand o (fun m s => s.writeP (bitStatus s.p s.a m)) s

/-- INC (R221). -/
def execInc (o : Operand) (s : State) : Result := modifyOperand o (fun m => m + 1) (fun _ r s => s.setZN r) s

/-- DEC (R222). -/
def execDec (o : Operand) (s : State) : Result := modifyOperand o (fun m => m - 1) (fun _ r s => s.setZN r) s

/-- INX (R223). -/
def execInx (s : State) : Result := implied (fun s => s.writeX (s.x + 1)) s

/-- INY (R224). -/
def execIny (s : State) : Result := implied (fun s => s.writeY (s.y + 1)) s

/-- DEX (R225). -/
def execDex (s : State) : Result := implied (fun s => s.writeX (s.x - 1)) s

/-- DEY (R226). -/
def execDey (s : State) : Result := implied (fun s => s.writeY (s.y - 1)) s

end Sys2Proof.Machine
end

