-- ==== Sys2Proof/Machine/Control.lean ====
section
/-! DEFINITION. Branches, jumps, calls and returns (44_control_flow R250 to R262). Every meaning is evaluated with `pc = pc0 +16 1` and leaves
`BusTick` to `tick`. -/

namespace Sys2Proof.Machine

/-- `next +16 sext_16(op1)` with `next = pc0 +16 2` (R250). -/
def branchTarget (disp : Byte) (s : State) : Addr := s.pc + 1 + sext16 disp

/-- The cost of a taken branch: 3, or 4 when `next` and the target lie in different pages (R250). -/
def branchCost (disp : Byte) (s : State) : Nat := if pageCrossed (s.pc + 1) (branchTarget disp s) then 4 else 3

/-- A conditional branch (R250). -/
def branch (taken : Bool) (disp : Byte) (s : State) : Result :=
  if taken then .next (jumpTo 2 (branchCost disp s) (branchTarget disp s) s) else .next (complete 2 2 s)

/-- BCC (R251). -/
def execBcc (disp : Byte) (s : State) : Result := branch (!s.flag .c) disp s

/-- BCS (R252). -/
def execBcs (disp : Byte) (s : State) : Result := branch (s.flag .c) disp s

/-- BEQ (R253). -/
def execBeq (disp : Byte) (s : State) : Result := branch (s.flag .z) disp s

/-- BNE (R254). -/
def execBne (disp : Byte) (s : State) : Result := branch (!s.flag .z) disp s

/-- BMI (R255). -/
def execBmi (disp : Byte) (s : State) : Result := branch (s.flag .n) disp s

/-- BPL (R256). -/
def execBpl (disp : Byte) (s : State) : Result := branch (!s.flag .n) disp s

/-- BVC (R257). -/
def execBvc (disp : Byte) (s : State) : Result := branch (!s.flag .v) disp s

/-- BVS (R258). -/
def execBvs (disp : Byte) (s : State) : Result := branch (s.flag .v) disp s

/-- JMP absolute (R259). -/
def execJmp (target : Addr) (s : State) : Result := .next (jumpTo 3 3 target s)

/-- Where JMP indirect reads the high byte: the pointer's low byte steps inside its page (R260). -/
def pointerHigh (pointer : Addr) : Addr := wordOf (hiByte pointer) (loByte pointer + 1)

/-- JMP indirect (R260); a pointer byte at an address whose read has a side effect is refused (U7, log 8). -/
def execJmpInd (pointer : Addr) (s : State) : Result :=
  if sideEffectRead pointer then .refused (.pointerByteAt pointer)
  else if sideEffectRead (pointerHigh pointer) then .refused (.pointerByteAt (pointerHigh pointer))
  else .next (jumpTo 3 5 (wordOf (peek s (pointerHigh pointer)) (peek s pointer)) s)

/-- An operand byte that is read after stores of its own instruction: `own`, the byte decoded, unless the stores changed the
cell `a` it was fetched from (R261, log 10). -/
def rereadByte (s s1 : State) (a : Addr) (own : Byte) : Byte := if peek s1 a = peek s a then own else peek s1 a

/-- The target of a JSR whose pushes gave `s1`: its operand is read after the pushes (R261). -/
def jsrTarget (s s1 : State) (target : Addr) : Addr :=
  wordOf (rereadByte s s1 (s.pc + 1) (hiByte target)) (rereadByte s s1 s.pc (loByte target))

/-- JSR (R261): pushes `pc0 +16 2`, the address of its last byte. -/
def execJsr (target : Addr) (s : State) : Result :=
  let s1 := push16 s (s.pc + 1)
  .next (jumpTo 3 6 (jsrTarget s s1 target) s1)

/-- RTS (R262). -/
def execRts (s : State) : Result := .next (jumpTo 1 6 (pulled16 s + 1) (pull16 s))

end Sys2Proof.Machine
end

