-- ==== Sys2Proof/Machine/Loads.lean ====
section
/-! DEFINITION. Loads, stores and transfers (41_load_store_transfer R190 to R201). Every meaning is evaluated with `pc = pc0 +16 1` and leaves
`BusTick` to `tick`. -/

namespace Sys2Proof.Machine

/-- LDA (R190). -/
def execLda (o : Operand) (s : State) : Result := readOperand o (fun m s => s.writeA m) s

/-- LDX (R191). -/
def execLdx (o : Operand) (s : State) : Result := readOperand o (fun m s => s.writeX m) s

/-- LDY (R192). -/
def execLdy (o : Operand) (s : State) : Result := readOperand o (fun m s => s.writeY m) s

/-- STA (R193). -/
def execSta (o : Operand) (s : State) : Result := storeOperand o s.a s

/-- STX (R194). -/
def execStx (o : Operand) (s : State) : Result := storeOperand o s.x s

/-- STY (R195). -/
def execSty (o : Operand) (s : State) : Result := storeOperand o s.y s

/-- TAX (R196). -/
def execTax (s : State) : Result := implied (fun s => s.writeX s.a) s

/-- TAY (R197). -/
def execTay (s : State) : Result := implied (fun s => s.writeY s.a) s

/-- TXA (R198). -/
def execTxa (s : State) : Result := implied (fun s => s.writeA s.x) s

/-- TYA (R199). -/
def execTya (s : State) : Result := implied (fun s => s.writeA s.y) s

/-- TSX (R200). -/
def execTsx (s : State) : Result := implied (fun s => s.writeX s.sp) s

/-- TXS (R201): no flag changes. -/
def execTxs (s : State) : Result := implied (fun s => s.writeSp s.x) s

end Sys2Proof.Machine
end

