-- ==== Sys2Proof/Machine/Shifts.lean ====
section
/-! DEFINITION. Shifts and rotates by one bit, of the accumulator or of memory (43_shift_rotate R240 to R244). Every meaning is evaluated with `pc = pc0 +16 1` and leaves
`BusTick` to `tick`. -/

namespace Sys2Proof.Machine

/-- The carry and `SetZN` after a shift of `m` with result `r` (R240). -/
def State.afterShift (s : State) (k : Shift) (m r : Byte) : State := (s.setFlag .c (k.carry m)).setZN r

/-- The accumulator form: the result goes to `A` (R240). -/
def State.shiftA (s : State) (k : Shift) : State :=
  let r := k.result s.a (s.flag .c)
  { s.afterShift k s.a r with a := r }

/-- A shift or rotate of the accumulator or of memory; the carry shifted in is the one before the instruction (R240). -/
def shiftOperand (k : Shift) (o : Operand) (s : State) : Result :=
  match o with
  | .acc => implied (fun s => s.shiftA k) s
  | _ => modifyOperand o (fun m => k.result m (s.flag .c)) (fun m r s => s.afterShift k m r) s

/-- ASL (R241). -/
def execAsl (o : Operand) (s : State) : Result := shiftOperand .asl o s

/-- LSR (R242). -/
def execLsr (o : Operand) (s : State) : Result := shiftOperand .lsr o s

/-- ROL (R243). -/
def execRol (o : Operand) (s : State) : Result := shiftOperand .rol o s

/-- ROR (R244). -/
def execRor (o : Operand) (s : State) : Result := shiftOperand .ror o s

end Sys2Proof.Machine
end

