-- ==== Sys2Proof/Machine/System.lean ====
section
/-! DEFINITION. The stack, the flags, NOP, BRK and RTI (45_stack_flags_system R270 to R283). Every meaning is evaluated with `pc = pc0 +16 1` and leaves
`BusTick` to `tick`. -/

namespace Sys2Proof.Machine

/-- PHA (R270). -/
def execPha (s : State) : Result := .next (complete 1 3 (push8 s s.a))

/-- PHP: the live status does not change (R271). -/
def execPhp (s : State) : Result := .next (complete 1 3 (push8 s (pushedWithBreak s.p)))

/-- PLA (R272). -/
def execPla (s : State) : Result := .next (complete 1 4 ((pull8 s).writeA (pulled8 s)))

/-- PLP: the raw status byte with break cleared and break2 set (R273). -/
def execPlp (s : State) : Result := .next (complete 1 4 ((pull8 s).writeP (withoutBreak (pulled8 s))))

/-- CLC (R274). -/
def execClc (s : State) : Result := implied (fun s => s.setFlag .c false) s

/-- SEC (R275). -/
def execSec (s : State) : Result := implied (fun s => s.setFlag .c true) s

/-- CLI (R276). -/
def execCli (s : State) : Result := implied (fun s => s.setFlag .i false) s

/-- SEI (R277). -/
def execSei (s : State) : Result := implied (fun s => s.setFlag .i true) s

/-- CLV (R278). -/
def execClv (s : State) : Result := implied (fun s => s.setFlag .v false) s

/-- CLD (R279). -/
def execCld (s : State) : Result := implied (fun s => s.setFlag .d false) s

/-- SED (R280). -/
def execSed (s : State) : Result := implied (fun s => s.setFlag .d true) s

/-- NOP (R281). -/
def execNop (s : State) : Result := implied (fun s => s) s

/-- BRK (R282, R472): the interrupt entry through `$FFFE`, or the stop of the test harness, to which nothing is added. -/
def execBrk (s : State) : Result :=
  match s.params.brkMode with
  | .interrupt =>
    let s1 := takeInterrupt (s.pc + 1) (pushedWithBreak s.p) Config.brkVector s
    .next (jumpTo 1 7 s1.pc s1)
  | .halt => .next { s with run := .halted }

/-- RTI (R283, R474). -/
def execRti (s : State) : Result :=
  let s1 := returnFromInterrupt s
  .next (jumpTo 1 6 s1.pc s1)

end Sys2Proof.Machine
end

