-- ==== Sys2Proof/Machine/Unofficial.lean ====
section
/-! DEFINITION. The unofficial instructions: the fused ones, the second SBC, the NOPs and the traps (46_unofficial R300 to R312). Every meaning is evaluated with `pc = pc0 +16 1` and leaves
`BusTick` to `tick`. -/

namespace Sys2Proof.Machine

/-- LAX: LDA then TAX (R301). -/
def execLax (o : Operand) (s : State) : Result := readOperand o (fun m s => (s.writeA m).writeX m) s

/-- SAX: stores A AND X (R302). -/
def execSax (o : Operand) (s : State) : Result := storeOperand o (s.a &&& s.x) s

/-- DCP: DEC then CMP (R303). -/
def execDcp (o : Operand) (s : State) : Result := modifyOperand o (fun m => m - 1) (fun _ r s => s.compare s.a r) s

/-- ISB: INC then SBC (R304). -/
def execIsb (o : Operand) (s : State) : Result := modifyOperand o (fun m => m + 1) (fun _ r s => s.addWithCarry (~~~r)) s

/-- SLO: ASL then ORA (R305). -/
def execSlo (o : Operand) (s : State) : Result :=
  modifyOperand o (fun m => Shift.asl.result m (s.flag .c))
    (fun m r s => (s.setFlag .c (Shift.asl.carry m)).writeA (s.a ||| r)) s

/-- RLA: ROL then AND (R306). -/
def execRla (o : Operand) (s : State) : Result :=
  modifyOperand o (fun m => Shift.rol.result m (s.flag .c))
    (fun m r s => (s.setFlag .c (Shift.rol.carry m)).writeA (s.a &&& r)) s

/-- SRE: LSR then EOR (R307). -/
def execSre (o : Operand) (s : State) : Result :=
  modifyOperand o (fun m => Shift.lsr.result m (s.flag .c))
    (fun m r s => (s.setFlag .c (Shift.lsr.carry m)).writeA (s.a ^^^ r)) s

/-- RRA: ROR then ADC, with the carry the rotate leaves (R308). -/
def execRra (o : Operand) (s : State) : Result :=
  modifyOperand o (fun m => Shift.ror.result m (s.flag .c))
    (fun m r s => (s.setFlag .c (Shift.ror.carry m)).addWithCarry r) s

/-- SBC immediate under `$EB` (R309). -/
def execSbcEB (value : Byte) (s : State) : Result := readOperand (.imm value) (fun m s => s.addWithCarry (~~~m)) s

/-- NOP without operand (R310). -/
def execNopImplied (_code : Byte) (s : State) : Result := implied (fun s => s) s

/-- NOP with an operand: the read is made, with its side effects, and discarded (R311, D16). -/
def execNopOperand (_code : Byte) (o : Operand) (s : State) : Result := readOperand o (fun _ s => s) s

/-- The stop of a trapped encoding, `UnknownOpcode(opcode, pc0)` (R154, R312, R463). -/
def unknownOpcode (code : Byte) (s : State) : Result := .fault (.unknownOpcode code (s.pc - 1))

/-- JAM: trapped (R312). -/
def execJam (code : Byte) (s : State) : Result := unknownOpcode code s

/-- ANC: trapped (R312). -/
def execAnc (code : Byte) (s : State) : Result := unknownOpcode code s

/-- ALR: trapped (R312). -/
def execAlr (s : State) : Result := unknownOpcode 0x4B s

/-- ARR: trapped (R312). -/
def execArr (s : State) : Result := unknownOpcode 0x6B s

/-- ANE: trapped (R312). -/
def execAne (s : State) : Result := unknownOpcode 0x8B s

/-- SHA: trapped (R312). -/
def execSha (code : Byte) (s : State) : Result := unknownOpcode code s

/-- TAS: trapped (R312). -/
def execTas (s : State) : Result := unknownOpcode 0x9B s

/-- SHY: trapped (R312). -/
def execShy (s : State) : Result := unknownOpcode 0x9C s

/-- SHX: trapped (R312). -/
def execShx (s : State) : Result := unknownOpcode 0x9E s

/-- LXA: trapped (R312). -/
def execLxa (s : State) : Result := unknownOpcode 0xAB s

/-- LAS: trapped (R312). -/
def execLas (s : State) : Result := unknownOpcode 0xBB s

/-- SBX: trapped (R312). -/
def execSbx (s : State) : Result := unknownOpcode 0xCB s

end Sys2Proof.Machine
end

