-- ==== Sys2Proof/Machine/Dispatch.lean ====
section
/-! DEFINITION. The dispatch from an instruction to its meaning (40_cpu_step_addressing R154). -/

namespace Sys2Proof.Machine

def exec (i : Instr) (s : State) : Host.Outcome State Fault Refusal :=
    match i with
    -- loads, stores, transfers (41)
    | .lda o => Sys2Proof.Machine.execLda o s
    | .ldx o => Sys2Proof.Machine.execLdx o s
    | .ldy o => Sys2Proof.Machine.execLdy o s
    | .sta o => Sys2Proof.Machine.execSta o s
    | .stx o => Sys2Proof.Machine.execStx o s
    | .sty o => Sys2Proof.Machine.execSty o s
    | .tax => Sys2Proof.Machine.execTax s
    | .tay => Sys2Proof.Machine.execTay s
    | .txa => Sys2Proof.Machine.execTxa s
    | .tya => Sys2Proof.Machine.execTya s
    | .tsx => Sys2Proof.Machine.execTsx s
    | .txs => Sys2Proof.Machine.execTxs s
    -- arithmetic and logic (42)
    | .adc o => Sys2Proof.Machine.execAdc o s
    | .sbc o => Sys2Proof.Machine.execSbc o s
    | .and o => Sys2Proof.Machine.execAnd o s
    | .ora o => Sys2Proof.Machine.execOra o s
    | .eor o => Sys2Proof.Machine.execEor o s
    | .cmp o => Sys2Proof.Machine.execCmp o s
    | .cpx o => Sys2Proof.Machine.execCpx o s
    | .cpy o => Sys2Proof.Machine.execCpy o s
    | .bit o => Sys2Proof.Machine.execBit o s
    | .inc o => Sys2Proof.Machine.execInc o s
    | .dec o => Sys2Proof.Machine.execDec o s
    | .inx => Sys2Proof.Machine.execInx s
    | .iny => Sys2Proof.Machine.execIny s
    | .dex => Sys2Proof.Machine.execDex s
    | .dey => Sys2Proof.Machine.execDey s
    -- shifts and rotates (43)
    | .asl o => Sys2Proof.Machine.execAsl o s
    | .lsr o => Sys2Proof.Machine.execLsr o s
    | .rol o => Sys2Proof.Machine.execRol o s
    | .ror o => Sys2Proof.Machine.execRor o s
    -- control flow (44)
    | .bcc disp => Sys2Proof.Machine.execBcc disp s
    | .bcs disp => Sys2Proof.Machine.execBcs disp s
    | .beq disp => Sys2Proof.Machine.execBeq disp s
    | .bne disp => Sys2Proof.Machine.execBne disp s
    | .bmi disp => Sys2Proof.Machine.execBmi disp s
    | .bpl disp => Sys2Proof.Machine.execBpl disp s
    | .bvc disp => Sys2Proof.Machine.execBvc disp s
    | .bvs disp => Sys2Proof.Machine.execBvs disp s
    | .jmp target => Sys2Proof.Machine.execJmp target s
    | .jmpInd pointer => Sys2Proof.Machine.execJmpInd pointer s
    | .jsr target => Sys2Proof.Machine.execJsr target s
    | .rts => Sys2Proof.Machine.execRts s
    -- stack, flags, system (45)
    | .pha => Sys2Proof.Machine.execPha s
    | .php => Sys2Proof.Machine.execPhp s
    | .pla => Sys2Proof.Machine.execPla s
    | .plp => Sys2Proof.Machine.execPlp s
    | .clc => Sys2Proof.Machine.execClc s
    | .sec => Sys2Proof.Machine.execSec s
    | .cli => Sys2Proof.Machine.execCli s
    | .sei => Sys2Proof.Machine.execSei s
    | .clv => Sys2Proof.Machine.execClv s
    | .cld => Sys2Proof.Machine.execCld s
    | .sed => Sys2Proof.Machine.execSed s
    | .nop => Sys2Proof.Machine.execNop s
    | .brk => Sys2Proof.Machine.execBrk s
    | .rti => Sys2Proof.Machine.execRti s
    -- unofficial, admitted (46)
    | .lax o => Sys2Proof.Machine.execLax o s
    | .sax o => Sys2Proof.Machine.execSax o s
    | .dcp o => Sys2Proof.Machine.execDcp o s
    | .isb o => Sys2Proof.Machine.execIsb o s
    | .slo o => Sys2Proof.Machine.execSlo o s
    | .rla o => Sys2Proof.Machine.execRla o s
    | .sre o => Sys2Proof.Machine.execSre o s
    | .rra o => Sys2Proof.Machine.execRra o s
    | .sbcEB value => Sys2Proof.Machine.execSbcEB value s
    | .nopImplied code => Sys2Proof.Machine.execNopImplied code s
    | .nopOperand code o => Sys2Proof.Machine.execNopOperand code o s
    -- trapped (R312): no operand byte is ever read
    | .jam code => Sys2Proof.Machine.execJam code s
    | .anc code => Sys2Proof.Machine.execAnc code s
    | .alr => Sys2Proof.Machine.execAlr s
    | .arr => Sys2Proof.Machine.execArr s
    | .ane => Sys2Proof.Machine.execAne s
    | .sha code => Sys2Proof.Machine.execSha code s
    | .tas => Sys2Proof.Machine.execTas s
    | .shy => Sys2Proof.Machine.execShy s
    | .shx => Sys2Proof.Machine.execShx s
    | .lxa => Sys2Proof.Machine.execLxa s
    | .las => Sys2Proof.Machine.execLas s
    | .sbx => Sys2Proof.Machine.execSbx s

end Sys2Proof.Machine
end

