-- ==== Sys2Proof/WellFormed.lean ====
section
/-! DEFINITION. Which terms of `Instr` are rows of the opcode table: the formats each instruction has (the Encoding lines of
41 to 46) and the opcode bytes of the rows that carry one. Every value of every operand byte is legal (R123). -/

namespace Sys2Proof

/-- LDA, AND, ORA, EOR, ADC, SBC, CMP (R190, R211 to R215, R217). -/
def Format.readForms : List Format := [.imm, .zp, .zpx, .abs, .abx, .aby, .izx, .izy]

/-- LDX (R191). -/
def Format.ldxForms : List Format := [.imm, .zp, .zpy, .abs, .aby]

/-- LDY (R192). -/
def Format.ldyForms : List Format := [.imm, .zp, .zpx, .abs, .abx]

/-- CPX, CPY (R218, R219). -/
def Format.indexCompareForms : List Format := [.imm, .zp, .abs]

/-- BIT (R220). -/
def Format.bitForms : List Format := [.zp, .abs]

/-- STA (R193). -/
def Format.staForms : List Format := [.zp, .zpx, .abs, .abx, .aby, .izx, .izy]

/-- STX (R194). -/
def Format.stxForms : List Format := [.zp, .zpy, .abs]

/-- STY (R195). -/
def Format.styForms : List Format := [.zp, .zpx, .abs]

/-- INC, DEC (R221, R222). -/
def Format.incForms : List Format := [.zp, .zpx, .abs, .abx]

/-- ASL, LSR, ROL, ROR (R241 to R244). -/
def Format.shiftForms : List Format := [.acc, .zp, .zpx, .abs, .abx]

/-- LAX (R301). -/
def Format.laxForms : List Format := [.zp, .zpy, .abs, .aby, .izx, .izy]

/-- SAX (R302). -/
def Format.saxForms : List Format := [.zp, .zpy, .abs, .izx]

/-- DCP, ISB, SLO, RLA, SRE, RRA (R303 to R308). -/
def Format.fusedForms : List Format := [.zp, .zpx, .abs, .abx, .aby, .izx, .izy]

/-- The opcode bytes of the unofficial NOPs without operand (R310). -/
def nopImpliedCodes : List Byte := [0x1A, 0x3A, 0x5A, 0x7A, 0xDA, 0xFA]

/-- The opcode bytes of the unofficial NOPs with an operand, by format (R311). -/
def nopOperandCodes : Format → List Byte
  | .imm => [0x80, 0x82, 0x89, 0xC2, 0xE2]
  | .zp => [0x04, 0x44, 0x64]
  | .zpx => [0x14, 0x34, 0x54, 0x74, 0xD4, 0xF4]
  | .abs => [0x0C]
  | .abx => [0x1C, 0x3C, 0x5C, 0x7C, 0xDC, 0xFC]
  | .acc | .zpy | .aby | .izx | .izy => []

/-- The opcode bytes of JAM, ANC and SHA (R312). -/
def jamCodes : List Byte := [0x02, 0x12, 0x22, 0x32, 0x42, 0x52, 0x62, 0x72, 0x92, 0xB2, 0xD2, 0xF2]
def ancCodes : List Byte := [0x0B, 0x2B]
def shaCodes : List Byte := [0x93, 0x9F]

/-- The term is a row of the opcode table. -/
def Instr.wellFormed : Instr → Bool
  | .lda o | .adc o | .sbc o | .and o | .ora o | .eor o | .cmp o => Format.readForms.contains o.format
  | .ldx o => Format.ldxForms.contains o.format
  | .ldy o => Format.ldyForms.contains o.format
  | .sta o => Format.staForms.contains o.format
  | .stx o => Format.stxForms.contains o.format
  | .sty o => Format.styForms.contains o.format
  | .cpx o | .cpy o => Format.indexCompareForms.contains o.format
  | .bit o => Format.bitForms.contains o.format
  | .inc o | .dec o => Format.incForms.contains o.format
  | .asl o | .lsr o | .rol o | .ror o => Format.shiftForms.contains o.format
  | .lax o => Format.laxForms.contains o.format
  | .sax o => Format.saxForms.contains o.format
  | .dcp o | .isb o | .slo o | .rla o | .sre o | .rra o => Format.fusedForms.contains o.format
  | .nopImplied code => nopImpliedCodes.contains code
  | .nopOperand code o => (nopOperandCodes o.format).contains code
  | .jam code => jamCodes.contains code
  | .anc code => ancCodes.contains code
  | .sha code => shaCodes.contains code
  | .tax | .tay | .txa | .tya | .tsx | .txs | .inx | .iny | .dex | .dey => true
  | .bcc _ | .bcs _ | .beq _ | .bne _ | .bmi _ | .bpl _ | .bvc _ | .bvs _ => true
  | .jmp _ | .jmpInd _ | .jsr _ | .rts => true
  | .pha | .php | .pla | .plp | .clc | .sec | .cli | .sei | .clv | .cld | .sed | .nop | .brk | .rti => true
  | .sbcEB _ => true
  | .alr | .arr | .ane | .tas | .shy | .shx | .lxa | .las | .sbx => true

end Sys2Proof
end

