-- ==== Sys2Proof/Decode.lean ====
section
/-! DEFINITION. Decoding and encoding (30_encoding). Decoding is one lookup of the opcode byte in the 256-row table of R126
(R124); the operand bytes follow, the low byte of a 16-bit operand first (R121, R123). The encoder is written from the Encoding
lines of the instruction rules (41 to 46), not from the table. -/

namespace Sys2Proof

/-- What the operand bytes of a row make of it (R121, R122): none, one byte, or two bytes as a little-endian word. A trapped row
has no operand: its bytes are never fetched (R312). -/
inductive Shape where
  | implied (i : Instr)
  | byte (mk : Byte → Instr)
  | word (mk : Addr → Instr)

/-- Official, admitted unofficial, or trapped (R130, R132, R133). -/
inductive RowClass where
  | official
  | unofficial
  | trapped
  deriving DecidableEq, Repr

/-- The opcode descriptor (R124) with the columns of R126. `length` and `baseCycles` of a trapped row are labels (R312). -/
structure Row where
  code : Byte
  shape : Shape
  length : Nat
  baseCycles : Nat
  pageCrossBonus : Bool
  kind : RowClass

/-- Rows `$00` to `$0F` of R126. -/
def opcodeRows0 : List Row := [
  ⟨0x00, .implied .brk, 1, 7, false, .official⟩,
  ⟨0x01, .byte fun b => .ora (.izx b), 2, 6, false, .official⟩,
  ⟨0x02, .implied (.jam 0x02), 1, 0, false, .trapped⟩,
  ⟨0x03, .byte fun b => .slo (.izx b), 2, 8, false, .unofficial⟩,
  ⟨0x04, .byte fun b => .nopOperand 0x04 (.zp b), 2, 3, false, .unofficial⟩,
  ⟨0x05, .byte fun b => .ora (.zp b), 2, 3, false, .official⟩,
  ⟨0x06, .byte fun b => .asl (.zp b), 2, 5, false, .official⟩,
  ⟨0x07, .byte fun b => .slo (.zp b), 2, 5, false, .unofficial⟩,
  ⟨0x08, .implied .php, 1, 3, false, .official⟩,
  ⟨0x09, .byte fun b => .ora (.imm b), 2, 2, false, .official⟩,
  ⟨0x0A, .implied (.asl .acc), 1, 2, false, .official⟩,
  ⟨0x0B, .implied (.anc 0x0B), 2, 0, false, .trapped⟩,
  ⟨0x0C, .word fun a => .nopOperand 0x0C (.abs a), 3, 4, false, .unofficial⟩,
  ⟨0x0D, .word fun a => .ora (.abs a), 3, 4, false, .official⟩,
  ⟨0x0E, .word fun a => .asl (.abs a), 3, 6, false, .official⟩,
  ⟨0x0F, .word fun a => .slo (.abs a), 3, 6, false, .unofficial⟩]

/-- Rows `$10` to `$1F` of R126. -/
def opcodeRows1 : List Row := [
  ⟨0x10, .byte .bpl, 2, 2, false, .official⟩,
  ⟨0x11, .byte fun b => .ora (.izy b), 2, 5, true, .official⟩,
  ⟨0x12, .implied (.jam 0x12), 1, 0, false, .trapped⟩,
  ⟨0x13, .byte fun b => .slo (.izy b), 2, 8, false, .unofficial⟩,
  ⟨0x14, .byte fun b => .nopOperand 0x14 (.zpx b), 2, 4, false, .unofficial⟩,
  ⟨0x15, .byte fun b => .ora (.zpx b), 2, 4, false, .official⟩,
  ⟨0x16, .byte fun b => .asl (.zpx b), 2, 6, false, .official⟩,
  ⟨0x17, .byte fun b => .slo (.zpx b), 2, 6, false, .unofficial⟩,
  ⟨0x18, .implied .clc, 1, 2, false, .official⟩,
  ⟨0x19, .word fun a => .ora (.aby a), 3, 4, true, .official⟩,
  ⟨0x1A, .implied (.nopImplied 0x1A), 1, 2, false, .unofficial⟩,
  ⟨0x1B, .word fun a => .slo (.aby a), 3, 7, false, .unofficial⟩,
  ⟨0x1C, .word fun a => .nopOperand 0x1C (.abx a), 3, 4, true, .unofficial⟩,
  ⟨0x1D, .word fun a => .ora (.abx a), 3, 4, true, .official⟩,
  ⟨0x1E, .word fun a => .asl (.abx a), 3, 7, false, .official⟩,
  ⟨0x1F, .word fun a => .slo (.abx a), 3, 7, false, .unofficial⟩]

/-- Rows `$20` to `$2F` of R126. -/
def opcodeRows2 : List Row := [
  ⟨0x20, .word .jsr, 3, 6, false, .official⟩,
  ⟨0x21, .byte fun b => .and (.izx b), 2, 6, false, .official⟩,
  ⟨0x22, .implied (.jam 0x22), 1, 0, false, .trapped⟩,
  ⟨0x23, .byte fun b => .rla (.izx b), 2, 8, false, .unofficial⟩,
  ⟨0x24, .byte fun b => .bit (.zp b), 2, 3, false, .official⟩,
  ⟨0x25, .byte fun b => .and (.zp b), 2, 3, false, .official⟩,
  ⟨0x26, .byte fun b => .rol (.zp b), 2, 5, false, .official⟩,
  ⟨0x27, .byte fun b => .rla (.zp b), 2, 5, false, .unofficial⟩,
  ⟨0x28, .implied .plp, 1, 4, false, .official⟩,
  ⟨0x29, .byte fun b => .and (.imm b), 2, 2, false, .official⟩,
  ⟨0x2A, .implied (.rol .acc), 1, 2, false, .official⟩,
  ⟨0x2B, .implied (.anc 0x2B), 2, 0, false, .trapped⟩,
  ⟨0x2C, .word fun a => .bit (.abs a), 3, 4, false, .official⟩,
  ⟨0x2D, .word fun a => .and (.abs a), 3, 4, false, .official⟩,
  ⟨0x2E, .word fun a => .rol (.abs a), 3, 6, false, .official⟩,
  ⟨0x2F, .word fun a => .rla (.abs a), 3, 6, false, .unofficial⟩]

/-- Rows `$30` to `$3F` of R126. -/
def opcodeRows3 : List Row := [
  ⟨0x30, .byte .bmi, 2, 2, false, .official⟩,
  ⟨0x31, .byte fun b => .and (.izy b), 2, 5, true, .official⟩,
  ⟨0x32, .implied (.jam 0x32), 1, 0, false, .trapped⟩,
  ⟨0x33, .byte fun b => .rla (.izy b), 2, 8, false, .unofficial⟩,
  ⟨0x34, .byte fun b => .nopOperand 0x34 (.zpx b), 2, 4, false, .unofficial⟩,
  ⟨0x35, .byte fun b => .and (.zpx b), 2, 4, false, .official⟩,
  ⟨0x36, .byte fun b => .rol (.zpx b), 2, 6, false, .official⟩,
  ⟨0x37, .byte fun b => .rla (.zpx b), 2, 6, false, .unofficial⟩,
  ⟨0x38, .implied .sec, 1, 2, false, .official⟩,
  ⟨0x39, .word fun a => .and (.aby a), 3, 4, true, .official⟩,
  ⟨0x3A, .implied (.nopImplied 0x3A), 1, 2, false, .unofficial⟩,
  ⟨0x3B, .word fun a => .rla (.aby a), 3, 7, false, .unofficial⟩,
  ⟨0x3C, .word fun a => .nopOperand 0x3C (.abx a), 3, 4, true, .unofficial⟩,
  ⟨0x3D, .word fun a => .and (.abx a), 3, 4, true, .official⟩,
  ⟨0x3E, .word fun a => .rol (.abx a), 3, 7, false, .official⟩,
  ⟨0x3F, .word fun a => .rla (.abx a), 3, 7, false, .unofficial⟩]

/-- Rows `$40` to `$4F` of R126. -/
def opcodeRows4 : List Row := [
  ⟨0x40, .implied .rti, 1, 6, false, .official⟩,
  ⟨0x41, .byte fun b => .eor (.izx b), 2, 6, false, .official⟩,
  ⟨0x42, .implied (.jam 0x42), 1, 0, false, .trapped⟩,
  ⟨0x43, .byte fun b => .sre (.izx b), 2, 8, false, .unofficial⟩,
  ⟨0x44, .byte fun b => .nopOperand 0x44 (.zp b), 2, 3, false, .unofficial⟩,
  ⟨0x45, .byte fun b => .eor (.zp b), 2, 3, false, .official⟩,
  ⟨0x46, .byte fun b => .lsr (.zp b), 2, 5, false, .official⟩,
  ⟨0x47, .byte fun b => .sre (.zp b), 2, 5, false, .unofficial⟩,
  ⟨0x48, .implied .pha, 1, 3, false, .official⟩,
  ⟨0x49, .byte fun b => .eor (.imm b), 2, 2, false, .official⟩,
  ⟨0x4A, .implied (.lsr .acc), 1, 2, false, .official⟩,
  ⟨0x4B, .implied .alr, 2, 0, false, .trapped⟩,
  ⟨0x4C, .word .jmp, 3, 3, false, .official⟩,
  ⟨0x4D, .word fun a => .eor (.abs a), 3, 4, false, .official⟩,
  ⟨0x4E, .word fun a => .lsr (.abs a), 3, 6, false, .official⟩,
  ⟨0x4F, .word fun a => .sre (.abs a), 3, 6, false, .unofficial⟩]

/-- Rows `$50` to `$5F` of R126. -/
def opcodeRows5 : List Row := [
  ⟨0x50, .byte .bvc, 2, 2, false, .official⟩,
  ⟨0x51, .byte fun b => .eor (.izy b), 2, 5, true, .official⟩,
  ⟨0x52, .implied (.jam 0x52), 1, 0, false, .trapped⟩,
  ⟨0x53, .byte fun b => .sre (.izy b), 2, 8, false, .unofficial⟩,
  ⟨0x54, .byte fun b => .nopOperand 0x54 (.zpx b), 2, 4, false, .unofficial⟩,
  ⟨0x55, .byte fun b => .eor (.zpx b), 2, 4, false, .official⟩,
  ⟨0x56, .byte fun b => .lsr (.zpx b), 2, 6, false, .official⟩,
  ⟨0x57, .byte fun b => .sre (.zpx b), 2, 6, false, .unofficial⟩,
  ⟨0x58, .implied .cli, 1, 2, false, .official⟩,
  ⟨0x59, .word fun a => .eor (.aby a), 3, 4, true, .official⟩,
  ⟨0x5A, .implied (.nopImplied 0x5A), 1, 2, false, .unofficial⟩,
  ⟨0x5B, .word fun a => .sre (.aby a), 3, 7, false, .unofficial⟩,
  ⟨0x5C, .word fun a => .nopOperand 0x5C (.abx a), 3, 4, true, .unofficial⟩,
  ⟨0x5D, .word fun a => .eor (.abx a), 3, 4, true, .official⟩,
  ⟨0x5E, .word fun a => .lsr (.abx a), 3, 7, false, .official⟩,
  ⟨0x5F, .word fun a => .sre (.abx a), 3, 7, false, .unofficial⟩]

/-- Rows `$60` to `$6F` of R126. -/
def opcodeRows6 : List Row := [
  ⟨0x60, .implied .rts, 1, 6, false, .official⟩,
  ⟨0x61, .byte fun b => .adc (.izx b), 2, 6, false, .official⟩,
  ⟨0x62, .implied (.jam 0x62), 1, 0, false, .trapped⟩,
  ⟨0x63, .byte fun b => .rra (.izx b), 2, 8, false, .unofficial⟩,
  ⟨0x64, .byte fun b => .nopOperand 0x64 (.zp b), 2, 3, false, .unofficial⟩,
  ⟨0x65, .byte fun b => .adc (.zp b), 2, 3, false, .official⟩,
  ⟨0x66, .byte fun b => .ror (.zp b), 2, 5, false, .official⟩,
  ⟨0x67, .byte fun b => .rra (.zp b), 2, 5, false, .unofficial⟩,
  ⟨0x68, .implied .pla, 1, 4, false, .official⟩,
  ⟨0x69, .byte fun b => .adc (.imm b), 2, 2, false, .official⟩,
  ⟨0x6A, .implied (.ror .acc), 1, 2, false, .official⟩,
  ⟨0x6B, .implied .arr, 2, 0, false, .trapped⟩,
  ⟨0x6C, .word .jmpInd, 3, 5, false, .official⟩,
  ⟨0x6D, .word fun a => .adc (.abs a), 3, 4, false, .official⟩,
  ⟨0x6E, .word fun a => .ror (.abs a), 3, 6, false, .official⟩,
  ⟨0x6F, .word fun a => .rra (.abs a), 3, 6, false, .unofficial⟩]

/-- Rows `$70` to `$7F` of R126. -/
def opcodeRows7 : List Row := [
  ⟨0x70, .byte .bvs, 2, 2, false, .official⟩,
  ⟨0x71, .byte fun b => .adc (.izy b), 2, 5, true, .official⟩,
  ⟨0x72, .implied (.jam 0x72), 1, 0, false, .trapped⟩,
  ⟨0x73, .byte fun b => .rra (.izy b), 2, 8, false, .unofficial⟩,
  ⟨0x74, .byte fun b => .nopOperand 0x74 (.zpx b), 2, 4, false, .unofficial⟩,
  ⟨0x75, .byte fun b => .adc (.zpx b), 2, 4, false, .official⟩,
  ⟨0x76, .byte fun b => .ror (.zpx b), 2, 6, false, .official⟩,
  ⟨0x77, .byte fun b => .rra (.zpx b), 2, 6, false, .unofficial⟩,
  ⟨0x78, .implied .sei, 1, 2, false, .official⟩,
  ⟨0x79, .word fun a => .adc (.aby a), 3, 4, true, .official⟩,
  ⟨0x7A, .implied (.nopImplied 0x7A), 1, 2, false, .unofficial⟩,
  ⟨0x7B, .word fun a => .rra (.aby a), 3, 7, false, .unofficial⟩,
  ⟨0x7C, .word fun a => .nopOperand 0x7C (.abx a), 3, 4, true, .unofficial⟩,
  ⟨0x7D, .word fun a => .adc (.abx a), 3, 4, true, .official⟩,
  ⟨0x7E, .word fun a => .ror (.abx a), 3, 7, false, .official⟩,
  ⟨0x7F, .word fun a => .rra (.abx a), 3, 7, false, .unofficial⟩]

/-- Rows `$80` to `$8F` of R126. -/
def opcodeRows8 : List Row := [
  ⟨0x80, .byte fun b => .nopOperand 0x80 (.imm b), 2, 2, false, .unofficial⟩,
  ⟨0x81, .byte fun b => .sta (.izx b), 2, 6, false, .official⟩,
  ⟨0x82, .byte fun b => .nopOperand 0x82 (.imm b), 2, 2, false, .unofficial⟩,
  ⟨0x83, .byte fun b => .sax (.izx b), 2, 6, false, .unofficial⟩,
  ⟨0x84, .byte fun b => .sty (.zp b), 2, 3, false, .official⟩,
  ⟨0x85, .byte fun b => .sta (.zp b), 2, 3, false, .official⟩,
  ⟨0x86, .byte fun b => .stx (.zp b), 2, 3, false, .official⟩,
  ⟨0x87, .byte fun b => .sax (.zp b), 2, 3, false, .unofficial⟩,
  ⟨0x88, .implied .dey, 1, 2, false, .official⟩,
  ⟨0x89, .byte fun b => .nopOperand 0x89 (.imm b), 2, 2, false, .unofficial⟩,
  ⟨0x8A, .implied .txa, 1, 2, false, .official⟩,
  ⟨0x8B, .implied .ane, 2, 0, false, .trapped⟩,
  ⟨0x8C, .word fun a => .sty (.abs a), 3, 4, false, .official⟩,
  ⟨0x8D, .word fun a => .sta (.abs a), 3, 4, false, .official⟩,
  ⟨0x8E, .word fun a => .stx (.abs a), 3, 4, false, .official⟩,
  ⟨0x8F, .word fun a => .sax (.abs a), 3, 4, false, .unofficial⟩]

/-- Rows `$90` to `$9F` of R126. -/
def opcodeRows9 : List Row := [
  ⟨0x90, .byte .bcc, 2, 2, false, .official⟩,
  ⟨0x91, .byte fun b => .sta (.izy b), 2, 6, false, .official⟩,
  ⟨0x92, .implied (.jam 0x92), 1, 0, false, .trapped⟩,
  ⟨0x93, .implied (.sha 0x93), 2, 0, false, .trapped⟩,
  ⟨0x94, .byte fun b => .sty (.zpx b), 2, 4, false, .official⟩,
  ⟨0x95, .byte fun b => .sta (.zpx b), 2, 4, false, .official⟩,
  ⟨0x96, .byte fun b => .stx (.zpy b), 2, 4, false, .official⟩,
  ⟨0x97, .byte fun b => .sax (.zpy b), 2, 4, false, .unofficial⟩,
  ⟨0x98, .implied .tya, 1, 2, false, .official⟩,
  ⟨0x99, .word fun a => .sta (.aby a), 3, 5, false, .official⟩,
  ⟨0x9A, .implied .txs, 1, 2, false, .official⟩,
  ⟨0x9B, .implied .tas, 3, 0, false, .trapped⟩,
  ⟨0x9C, .implied .shy, 3, 0, false, .trapped⟩,
  ⟨0x9D, .word fun a => .sta (.abx a), 3, 5, false, .official⟩,
  ⟨0x9E, .implied .shx, 3, 0, false, .trapped⟩,
  ⟨0x9F, .implied (.sha 0x9F), 3, 0, false, .trapped⟩]

/-- Rows `$A0` to `$AF` of R126. -/
def opcodeRowsA : List Row := [
  ⟨0xA0, .byte fun b => .ldy (.imm b), 2, 2, false, .official⟩,
  ⟨0xA1, .byte fun b => .lda (.izx b), 2, 6, false, .official⟩,
  ⟨0xA2, .byte fun b => .ldx (.imm b), 2, 2, false, .official⟩,
  ⟨0xA3, .byte fun b => .lax (.izx b), 2, 6, false, .unofficial⟩,
  ⟨0xA4, .byte fun b => .ldy (.zp b), 2, 3, false, .official⟩,
  ⟨0xA5, .byte fun b => .lda (.zp b), 2, 3, false, .official⟩,
  ⟨0xA6, .byte fun b => .ldx (.zp b), 2, 3, false, .official⟩,
  ⟨0xA7, .byte fun b => .lax (.zp b), 2, 3, false, .unofficial⟩,
  ⟨0xA8, .implied .tay, 1, 2, false, .official⟩,
  ⟨0xA9, .byte fun b => .lda (.imm b), 2, 2, false, .official⟩,
  ⟨0xAA, .implied .tax, 1, 2, false, .official⟩,
  ⟨0xAB, .implied .lxa, 2, 0, false, .trapped⟩,
  ⟨0xAC, .word fun a => .ldy (.abs a), 3, 4, false, .official⟩,
  ⟨0xAD, .word fun a => .lda (.abs a), 3, 4, false, .official⟩,
  ⟨0xAE, .word fun a => .ldx (.abs a), 3, 4, false, .official⟩,
  ⟨0xAF, .word fun a => .lax (.abs a), 3, 4, false, .unofficial⟩]

/-- Rows `$B0` to `$BF` of R126. -/
def opcodeRowsB : List Row := [
  ⟨0xB0, .byte .bcs, 2, 2, false, .official⟩,
  ⟨0xB1, .byte fun b => .lda (.izy b), 2, 5, true, .official⟩,
  ⟨0xB2, .implied (.jam 0xB2), 1, 0, false, .trapped⟩,
  ⟨0xB3, .byte fun b => .lax (.izy b), 2, 5, true, .unofficial⟩,
  ⟨0xB4, .byte fun b => .ldy (.zpx b), 2, 4, false, .official⟩,
  ⟨0xB5, .byte fun b => .lda (.zpx b), 2, 4, false, .official⟩,
  ⟨0xB6, .byte fun b => .ldx (.zpy b), 2, 4, false, .official⟩,
  ⟨0xB7, .byte fun b => .lax (.zpy b), 2, 4, false, .unofficial⟩,
  ⟨0xB8, .implied .clv, 1, 2, false, .official⟩,
  ⟨0xB9, .word fun a => .lda (.aby a), 3, 4, true, .official⟩,
  ⟨0xBA, .implied .tsx, 1, 2, false, .official⟩,
  ⟨0xBB, .implied .las, 3, 0, false, .trapped⟩,
  ⟨0xBC, .word fun a => .ldy (.abx a), 3, 4, true, .official⟩,
  ⟨0xBD, .word fun a => .lda (.abx a), 3, 4, true, .official⟩,
  ⟨0xBE, .word fun a => .ldx (.aby a), 3, 4, true, .official⟩,
  ⟨0xBF, .word fun a => .lax (.aby a), 3, 4, true, .unofficial⟩]

/-- Rows `$C0` to `$CF` of R126. -/
def opcodeRowsC : List Row := [
  ⟨0xC0, .byte fun b => .cpy (.imm b), 2, 2, false, .official⟩,
  ⟨0xC1, .byte fun b => .cmp (.izx b), 2, 6, false, .official⟩,
  ⟨0xC2, .byte fun b => .nopOperand 0xC2 (.imm b), 2, 2, false, .unofficial⟩,
  ⟨0xC3, .byte fun b => .dcp (.izx b), 2, 8, false, .unofficial⟩,
  ⟨0xC4, .byte fun b => .cpy (.zp b), 2, 3, false, .official⟩,
  ⟨0xC5, .byte fun b => .cmp (.zp b), 2, 3, false, .official⟩,
  ⟨0xC6, .byte fun b => .dec (.zp b), 2, 5, false, .official⟩,
  ⟨0xC7, .byte fun b => .dcp (.zp b), 2, 5, false, .unofficial⟩,
  ⟨0xC8, .implied .iny, 1, 2, false, .official⟩,
  ⟨0xC9, .byte fun b => .cmp (.imm b), 2, 2, false, .official⟩,
  ⟨0xCA, .implied .dex, 1, 2, false, .official⟩,
  ⟨0xCB, .implied .sbx, 2, 0, false, .trapped⟩,
  ⟨0xCC, .word fun a => .cpy (.abs a), 3, 4, false, .official⟩,
  ⟨0xCD, .word fun a => .cmp (.abs a), 3, 4, false, .official⟩,
  ⟨0xCE, .word fun a => .dec (.abs a), 3, 6, false, .official⟩,
  ⟨0xCF, .word fun a => .dcp (.abs a), 3, 6, false, .unofficial⟩]

/-- Rows `$D0` to `$DF` of R126. -/
def opcodeRowsD : List Row := [
  ⟨0xD0, .byte .bne, 2, 2, false, .official⟩,
  ⟨0xD1, .byte fun b => .cmp (.izy b), 2, 5, true, .official⟩,
  ⟨0xD2, .implied (.jam 0xD2), 1, 0, false, .trapped⟩,
  ⟨0xD3, .byte fun b => .dcp (.izy b), 2, 8, false, .unofficial⟩,
  ⟨0xD4, .byte fun b => .nopOperand 0xD4 (.zpx b), 2, 4, false, .unofficial⟩,
  ⟨0xD5, .byte fun b => .cmp (.zpx b), 2, 4, false, .official⟩,
  ⟨0xD6, .byte fun b => .dec (.zpx b), 2, 6, false, .official⟩,
  ⟨0xD7, .byte fun b => .dcp (.zpx b), 2, 6, false, .unofficial⟩,
  ⟨0xD8, .implied .cld, 1, 2, false, .official⟩,
  ⟨0xD9, .word fun a => .cmp (.aby a), 3, 4, true, .official⟩,
  ⟨0xDA, .implied (.nopImplied 0xDA), 1, 2, false, .unofficial⟩,
  ⟨0xDB, .word fun a => .dcp (.aby a), 3, 7, false, .unofficial⟩,
  ⟨0xDC, .word fun a => .nopOperand 0xDC (.abx a), 3, 4, true, .unofficial⟩,
  ⟨0xDD, .word fun a => .cmp (.abx a), 3, 4, true, .official⟩,
  ⟨0xDE, .word fun a => .dec (.abx a), 3, 7, false, .official⟩,
  ⟨0xDF, .word fun a => .dcp (.abx a), 3, 7, false, .unofficial⟩]

/-- Rows `$E0` to `$EF` of R126. -/
def opcodeRowsE : List Row := [
  ⟨0xE0, .byte fun b => .cpx (.imm b), 2, 2, false, .official⟩,
  ⟨0xE1, .byte fun b => .sbc (.izx b), 2, 6, false, .official⟩,
  ⟨0xE2, .byte fun b => .nopOperand 0xE2 (.imm b), 2, 2, false, .unofficial⟩,
  ⟨0xE3, .byte fun b => .isb (.izx b), 2, 8, false, .unofficial⟩,
  ⟨0xE4, .byte fun b => .cpx (.zp b), 2, 3, false, .official⟩,
  ⟨0xE5, .byte fun b => .sbc (.zp b), 2, 3, false, .official⟩,
  ⟨0xE6, .byte fun b => .inc (.zp b), 2, 5, false, .official⟩,
  ⟨0xE7, .byte fun b => .isb (.zp b), 2, 5, false, .unofficial⟩,
  ⟨0xE8, .implied .inx, 1, 2, false, .official⟩,
  ⟨0xE9, .byte fun b => .sbc (.imm b), 2, 2, false, .official⟩,
  ⟨0xEA, .implied .nop, 1, 2, false, .official⟩,
  ⟨0xEB, .byte .sbcEB, 2, 2, false, .unofficial⟩,
  ⟨0xEC, .word fun a => .cpx (.abs a), 3, 4, false, .official⟩,
  ⟨0xED, .word fun a => .sbc (.abs a), 3, 4, false, .official⟩,
  ⟨0xEE, .word fun a => .inc (.abs a), 3, 6, false, .official⟩,
  ⟨0xEF, .word fun a => .isb (.abs a), 3, 6, false, .unofficial⟩]

/-- Rows `$F0` to `$FF` of R126. -/
def opcodeRowsF : List Row := [
  ⟨0xF0, .byte .beq, 2, 2, false, .official⟩,
  ⟨0xF1, .byte fun b => .sbc (.izy b), 2, 5, true, .official⟩,
  ⟨0xF2, .implied (.jam 0xF2), 1, 0, false, .trapped⟩,
  ⟨0xF3, .byte fun b => .isb (.izy b), 2, 8, false, .unofficial⟩,
  ⟨0xF4, .byte fun b => .nopOperand 0xF4 (.zpx b), 2, 4, false, .unofficial⟩,
  ⟨0xF5, .byte fun b => .sbc (.zpx b), 2, 4, false, .official⟩,
  ⟨0xF6, .byte fun b => .inc (.zpx b), 2, 6, false, .official⟩,
  ⟨0xF7, .byte fun b => .isb (.zpx b), 2, 6, false, .unofficial⟩,
  ⟨0xF8, .implied .sed, 1, 2, false, .official⟩,
  ⟨0xF9, .word fun a => .sbc (.aby a), 3, 4, true, .official⟩,
  ⟨0xFA, .implied (.nopImplied 0xFA), 1, 2, false, .unofficial⟩,
  ⟨0xFB, .word fun a => .isb (.aby a), 3, 7, false, .unofficial⟩,
  ⟨0xFC, .word fun a => .nopOperand 0xFC (.abx a), 3, 4, true, .unofficial⟩,
  ⟨0xFD, .word fun a => .sbc (.abx a), 3, 4, true, .official⟩,
  ⟨0xFE, .word fun a => .inc (.abx a), 3, 7, false, .official⟩,
  ⟨0xFF, .word fun a => .isb (.abx a), 3, 7, false, .unofficial⟩]

/-- The opcode table: one row for every byte value, in byte order (R126, R130). -/
def opcodeTable : List Row :=
  opcodeRows0 ++ opcodeRows1 ++ opcodeRows2 ++ opcodeRows3 ++ opcodeRows4 ++ opcodeRows5 ++ opcodeRows6 ++ opcodeRows7 ++
  opcodeRows8 ++ opcodeRows9 ++ opcodeRowsA ++ opcodeRowsB ++ opcodeRowsC ++ opcodeRowsD ++ opcodeRowsE ++ opcodeRowsF

/-- The row of an opcode byte: all eight bits select it (R121, R124). The table has a row for every byte, so the row given
for a position past its end is never used. -/
def opcodeRow (code : Byte) : Row :=
  (opcodeTable[code.toNat]?).getD ⟨code, .implied (.jam code), 1, 0, false, .trapped⟩

/-- The number of operand bytes that the decoder takes after the opcode byte. -/
def Shape.operandBytes : Shape → Nat
  | .implied _ => 0
  | .byte _ => 1
  | .word _ => 2

/-- The instruction of a row with its operand bytes (R123). -/
def Shape.build (op1 op2 : Byte) : Shape → Instr
  | .implied i => i
  | .byte mk => mk op1
  | .word mk => mk (wordOf op2 op1)

/-- The instruction whose first three bytes are these; a byte past its length is not looked at. -/
def decode3 (code op1 op2 : Byte) : Instr := (opcodeRow code).shape.build op1 op2

/-- Why a list of bytes holds no instruction. -/
inductive DecodeError where
  /-- There is no opcode byte. -/
  | noBytes
  /-- The row of this opcode byte has more operand bytes than there are. -/
  | truncated (code : Byte)
  deriving DecidableEq, Repr

/-- The first instruction of a list of bytes and the bytes after it. -/
def decode : List Byte → Except DecodeError (Instr × List Byte)
  | [] => .error .noBytes
  | code :: rest =>
    match (opcodeRow code).shape, rest with
    | .implied i, rest => .ok (i, rest)
    | .byte mk, op1 :: rest => .ok (mk op1, rest)
    | .word mk, op1 :: op2 :: rest => .ok (mk (wordOf op2 op1), rest)
    | _, _ => .error (.truncated code)

/-- The opcode byte of one of the formats listed, as an Encoding line lists them. -/
def Operand.code (o : Operand) (line : List (Format × Byte)) : Option Byte := line.lookup o.format

/-- The opcode byte of a well-formed instruction (the Encoding lines of 41 to 46). -/
def Instr.opcode : Instr → Option Byte
  | .lda o => o.code [(.imm, 0xA9), (.zp, 0xA5), (.zpx, 0xB5), (.abs, 0xAD), (.abx, 0xBD), (.aby, 0xB9), (.izx, 0xA1), (.izy, 0xB1)]
  | .ldx o => o.code [(.imm, 0xA2), (.zp, 0xA6), (.zpy, 0xB6), (.abs, 0xAE), (.aby, 0xBE)]
  | .ldy o => o.code [(.imm, 0xA0), (.zp, 0xA4), (.zpx, 0xB4), (.abs, 0xAC), (.abx, 0xBC)]
  | .sta o => o.code [(.zp, 0x85), (.zpx, 0x95), (.abs, 0x8D), (.abx, 0x9D), (.aby, 0x99), (.izx, 0x81), (.izy, 0x91)]
  | .stx o => o.code [(.zp, 0x86), (.zpy, 0x96), (.abs, 0x8E)]
  | .sty o => o.code [(.zp, 0x84), (.zpx, 0x94), (.abs, 0x8C)]
  | .tax => some 0xAA
  | .tay => some 0xA8
  | .txa => some 0x8A
  | .tya => some 0x98
  | .tsx => some 0xBA
  | .txs => some 0x9A
  | .adc o => o.code [(.imm, 0x69), (.zp, 0x65), (.zpx, 0x75), (.abs, 0x6D), (.abx, 0x7D), (.aby, 0x79), (.izx, 0x61), (.izy, 0x71)]
  | .sbc o => o.code [(.imm, 0xE9), (.zp, 0xE5), (.zpx, 0xF5), (.abs, 0xED), (.abx, 0xFD), (.aby, 0xF9), (.izx, 0xE1), (.izy, 0xF1)]
  | .and o => o.code [(.imm, 0x29), (.zp, 0x25), (.zpx, 0x35), (.abs, 0x2D), (.abx, 0x3D), (.aby, 0x39), (.izx, 0x21), (.izy, 0x31)]
  | .ora o => o.code [(.imm, 0x09), (.zp, 0x05), (.zpx, 0x15), (.abs, 0x0D), (.abx, 0x1D), (.aby, 0x19), (.izx, 0x01), (.izy, 0x11)]
  | .eor o => o.code [(.imm, 0x49), (.zp, 0x45), (.zpx, 0x55), (.abs, 0x4D), (.abx, 0x5D), (.aby, 0x59), (.izx, 0x41), (.izy, 0x51)]
  | .cmp o => o.code [(.imm, 0xC9), (.zp, 0xC5), (.zpx, 0xD5), (.abs, 0xCD), (.abx, 0xDD), (.aby, 0xD9), (.izx, 0xC1), (.izy, 0xD1)]
  | .cpx o => o.code [(.imm, 0xE0), (.zp, 0xE4), (.abs, 0xEC)]
  | .cpy o => o.code [(.imm, 0xC0), (.zp, 0xC4), (.abs, 0xCC)]
  | .bit o => o.code [(.zp, 0x24), (.abs, 0x2C)]
  | .inc o => o.code [(.zp, 0xE6), (.zpx, 0xF6), (.abs, 0xEE), (.abx, 0xFE)]
  | .dec o => o.code [(.zp, 0xC6), (.zpx, 0xD6), (.abs, 0xCE), (.abx, 0xDE)]
  | .inx => some 0xE8
  | .iny => some 0xC8
  | .dex => some 0xCA
  | .dey => some 0x88
  | .asl o => o.code [(.acc, 0x0A), (.zp, 0x06), (.zpx, 0x16), (.abs, 0x0E), (.abx, 0x1E)]
  | .lsr o => o.code [(.acc, 0x4A), (.zp, 0x46), (.zpx, 0x56), (.abs, 0x4E), (.abx, 0x5E)]
  | .rol o => o.code [(.acc, 0x2A), (.zp, 0x26), (.zpx, 0x36), (.abs, 0x2E), (.abx, 0x3E)]
  | .ror o => o.code [(.acc, 0x6A), (.zp, 0x66), (.zpx, 0x76), (.abs, 0x6E), (.abx, 0x7E)]
  | .bcc _ => some 0x90
  | .bcs _ => some 0xB0
  | .beq _ => some 0xF0
  | .bne _ => some 0xD0
  | .bmi _ => some 0x30
  | .bpl _ => some 0x10
  | .bvc _ => some 0x50
  | .bvs _ => some 0x70
  | .jmp _ => some 0x4C
  | .jmpInd _ => some 0x6C
  | .jsr _ => some 0x20
  | .rts => some 0x60
  | .pha => some 0x48
  | .php => some 0x08
  | .pla => some 0x68
  | .plp => some 0x28
  | .clc => some 0x18
  | .sec => some 0x38
  | .cli => some 0x58
  | .sei => some 0x78
  | .clv => some 0xB8
  | .cld => some 0xD8
  | .sed => some 0xF8
  | .nop => some 0xEA
  | .brk => some 0x00
  | .rti => some 0x40
  | .lax o => o.code [(.zp, 0xA7), (.zpy, 0xB7), (.abs, 0xAF), (.aby, 0xBF), (.izx, 0xA3), (.izy, 0xB3)]
  | .sax o => o.code [(.zp, 0x87), (.zpy, 0x97), (.abs, 0x8F), (.izx, 0x83)]
  | .dcp o => o.code [(.zp, 0xC7), (.zpx, 0xD7), (.abs, 0xCF), (.abx, 0xDF), (.aby, 0xDB), (.izx, 0xC3), (.izy, 0xD3)]
  | .isb o => o.code [(.zp, 0xE7), (.zpx, 0xF7), (.abs, 0xEF), (.abx, 0xFF), (.aby, 0xFB), (.izx, 0xE3), (.izy, 0xF3)]
  | .slo o => o.code [(.zp, 0x07), (.zpx, 0x17), (.abs, 0x0F), (.abx, 0x1F), (.aby, 0x1B), (.izx, 0x03), (.izy, 0x13)]
  | .rla o => o.code [(.zp, 0x27), (.zpx, 0x37), (.abs, 0x2F), (.abx, 0x3F), (.aby, 0x3B), (.izx, 0x23), (.izy, 0x33)]
  | .sre o => o.code [(.zp, 0x47), (.zpx, 0x57), (.abs, 0x4F), (.abx, 0x5F), (.aby, 0x5B), (.izx, 0x43), (.izy, 0x53)]
  | .rra o => o.code [(.zp, 0x67), (.zpx, 0x77), (.abs, 0x6F), (.abx, 0x7F), (.aby, 0x7B), (.izx, 0x63), (.izy, 0x73)]
  | .sbcEB _ => some 0xEB
  | .nopImplied code => if nopImpliedCodes.contains code then some code else none
  | .nopOperand code o => if (nopOperandCodes o.format).contains code then some code else none
  | .jam code => if jamCodes.contains code then some code else none
  | .anc code => if ancCodes.contains code then some code else none
  | .alr => some 0x4B
  | .arr => some 0x6B
  | .ane => some 0x8B
  | .sha code => if shaCodes.contains code then some code else none
  | .tas => some 0x9B
  | .shy => some 0x9C
  | .shx => some 0x9E
  | .lxa => some 0xAB
  | .las => some 0xBB
  | .sbx => some 0xCB

/-- The bytes of a word in memory order (R85, R121). -/
def wordBytes (a : Addr) : List Byte := [loByte a, hiByte a]

/-- The operand bytes of a format (R121, R122). -/
def Operand.bytes : Operand → List Byte
  | .acc => []
  | .imm b | .zp b | .zpx b | .zpy b | .izx b | .izy b => [b]
  | .abs a | .abx a | .aby a => wordBytes a

/-- The operand bytes of an instruction; a trapped row has none that is ever fetched (R312). -/
def Instr.operandBytes : Instr → List Byte
  | .lda o | .ldx o | .ldy o | .sta o | .stx o | .sty o => o.bytes
  | .adc o | .sbc o | .and o | .ora o | .eor o | .cmp o | .cpx o | .cpy o | .bit o | .inc o | .dec o => o.bytes
  | .asl o | .lsr o | .rol o | .ror o => o.bytes
  | .lax o | .sax o | .dcp o | .isb o | .slo o | .rla o | .sre o | .rra o | .nopOperand _ o => o.bytes
  | .bcc d | .bcs d | .beq d | .bne d | .bmi d | .bpl d | .bvc d | .bvs d => [d]
  | .jmp a | .jmpInd a | .jsr a => wordBytes a
  | .sbcEB v => [v]
  | .tax | .tay | .txa | .tya | .tsx | .txs | .inx | .iny | .dex | .dey => []
  | .rts | .pha | .php | .pla | .plp | .clc | .sec | .cli | .sei | .clv | .cld | .sed | .nop | .brk | .rti => []
  | .nopImplied _ | .jam _ | .anc _ | .sha _ | .alr | .arr | .ane | .tas | .shy | .shx | .lxa | .las | .sbx => []

/-- The bytes of a well-formed instruction (R121); an ill-formed term has none. -/
def encode (i : Instr) : List Byte :=
  match i.opcode with
  | some code => code :: i.operandBytes
  | none => []

/-- The three bytes of an instruction written as one number, as spec/opcode_table.json numbers its bits: byte 0 is bits 7..0,
byte 1 is bits 15..8, byte 2 is bits 23..16; the bits from `nbits` on are 0. -/
def tableBytes (nbits w : Nat) : List Byte :=
  let v := w % 2 ^ nbits
  [BitVec.ofNat 8 v, BitVec.ofNat 8 (v / 256), BitVec.ofNat 8 (v / 65536)]

/-- The instruction the decoder reads from an instruction whose bits are `w`. -/
def decodeTableWord (nbits w : Nat) : Option Instr :=
  match decode (tableBytes nbits w) with
  | .ok (i, _) => some i
  | .error _ => none

end Sys2Proof
end

