-- ==== Sys2Proof/Machine/Tick.lean ====
section
/-! DEFINITION. One call of `tick` (40_cpu_step_addressing R150 to R157, 60_exceptions R473), over a given `execute`, and the
placing of an instruction where the next tick fetches it. -/

namespace Sys2Proof.Machine

/-- The instruction whose bytes lie at `pc` (R153, R154). The three bytes are looked at without their side effects: those the
instruction reads are at addresses that have none (`operandByteRefused`), the others do not matter to `decode3` (log 10). -/
def fetched (s : State) : Instr := decode3 (peek s s.pc) (peek s (s.pc + 1)) (peek s (s.pc + 2))

/-- Is this a branch that will not be taken? It does not read its operand byte (R170, R250, D17). -/
def branchNotTaken (i : Instr) (s : State) : Bool :=
  match i with
  | .bcc _ => s.flag .c
  | .bcs _ => !s.flag .c
  | .beq _ => !s.flag .z
  | .bne _ => s.flag .z
  | .bmi _ => !s.flag .n
  | .bpl _ => s.flag .n
  | .bvc _ => s.flag .v
  | .bvs _ => !s.flag .v
  | _ => false

/-- The addresses of the operand bytes that the instruction at `pc` reads (R121, R159). -/
def operandAddrs (i : Instr) (s : State) : List Addr :=
  if branchNotTaken i s then []
  else (List.range i.operandBytes.length).map fun k => s.pc + 1 + BitVec.ofNat 16 k

/-- The first instruction byte that lies at an address whose reads have side effects (R100, R159, U7, log 8). -/
def refusedByte (i : Instr) (s : State) : Option Addr := (s.pc :: operandAddrs i s).find? sideEffectRead

/-- The end of a tick that ran an instruction: time advances by what was added to the pending counter, which was 0 (R155, R157).
A BRK that halts ends the tick at once (R282). -/
def endTick (s : State) : State :=
  match s.run with
  | .running => busTick s.cycles s
  | .halted | .faulted _ => s

/-- Fetch, decode and execute (R153 to R157). -/
def runInstruction (execute : Instr → State → Result) (s : State) : Result :=
  match refusedByte (fetched s) s with
  | some a => .refused (.instructionByteAt a)
  | none => andThen (execute (fetched s) { s with pc := s.pc + 1 }) fun t => .next (endTick t)

/-- `tick(bus)` (R150, R151, R152, R473): nothing, a stalling tick, an NMI entry or one instruction. -/
def tick (execute : Instr → State → Result) (s : State) : Result :=
  match s.run with
  | .halted | .faulted _ => .next s
  | .running =>
    if 0 < s.cycles then .next { s with cycles := s.cycles - 1 }
    else if s.ppu.nmiPending then .next (interruptNmi (pollNmi s))
    else runInstruction execute s

/-- Three bytes at consecutive cells of a memory. -/
def writeThree (m : Memory) (k0 k1 k2 : Nat) (b0 b1 b2 : Byte) : Memory := ((m.write k0 b0).write k1 b1).write k2 b2

/-- Three bytes placed at `pc` where RAM or PRG ROM holds all of them, otherwise at `$0000` with `pc` moved there (log 14). -/
def placeBytes (s : State) (b0 b1 b2 : Byte) : State :=
  if s.pc ≤ 0x1FFD#16 then
    { s with ram := writeThree s.ram (ramCell s.pc) (ramCell (s.pc + 1)) (ramCell (s.pc + 2)) b0 b1 b2 }
  else if 0x8000#16 ≤ s.pc ∧ s.pc ≤ 0xFFFD#16 then
    { s with prgRom := writeThree s.prgRom (prgOffset s.prgSize s.pc) (prgOffset s.prgSize (s.pc + 1))
                          (prgOffset s.prgSize (s.pc + 2)) b0 b1 b2 }
  else { s with pc := 0, ram := writeThree s.ram 0 1 2 b0 b1 b2 }

/-- The instruction whose bits are `w` placed where the next tick fetches, in a machine that is running with no stall and no NMI
pending (log 14). -/
def placeWord (s : State) (nbits w : Nat) : State :=
  let v := w % 2 ^ nbits
  placeBytes { pollNmi s with cycles := 0, run := .running }
    (BitVec.ofNat 8 v) (BitVec.ofNat 8 (v / 256)) (BitVec.ofNat 8 (v / 65536))

end Sys2Proof.Machine
end

