-- ==== Sys2Proof/Machine/Step.lean ====
section
/-! DEFINITION. The step of the machine: one call of `tick` (40_cpu_step_addressing R150; log 6). -/

namespace Sys2Proof.Machine

/-- One call of `tick`. -/
def step (s : State) : Host.Outcome State Fault Refusal := tick exec s

/-- The instruction whose bits are `w`, placed where `step` fetches its next instruction (log 14). -/
def State.withFetchWord (s : State) (nbits w : Nat) : State := placeWord s nbits w

end Sys2Proof.Machine
end

