-- ==== Sys2Proof/Machine/Reset.lean ====
section
/-! DEFINITION. The host's two operations between ticks: `reset()` (70_reset_and_hazards R501) and construction (R500). -/

namespace Sys2Proof.Machine

/-- `reset()`, the CPU reset: it touches the register file, the pending counter and `run` only (R501, log 17). -/
def cpuReset (s : State) : State :=
  { s with a := 0x00, x := 0x00, y := 0x00, sp := 0xFD, p := 0x24, cycles := 0, run := .running, pc := peek16 s Config.resetVector }

/-- What a core is constructed from: the cartridge and the parameters of R9, with R9's defaults. DESIGN CHOICE: the spec gives the
four initial contents no length, and the model takes byte lists of any length (log 23). -/
structure Setup where
  prgRom : List Byte
  chrRom : List Byte
  mirroring : Mirroring
  ram : List Byte := []
  vram : List Byte := []
  palette : List Byte := []
  oam : List Byte := []
  scanline : Int := -1
  dot : Nat := 0
  resetCycleCost : Nat := 0
  params : Params := {}
  hostInputs : List Byte := []
  deriving DecidableEq, Repr

/-- The size of a PRG image, if it is admitted (R80). -/
def PrgSize.ofLength (n : Nat) : Option PrgSize :=
  if n = 0x4000 then some .kib16 else if n = 0x8000 then some .kib32 else none

/-- The initial contents of a memory of `n` bytes. DESIGN CHOICE: of a longer list the first `n` bytes, and after a shorter one zeros
(R9 gives no length; log 23). -/
def initialMemory (n : Nat) (bytes : List Byte) : Memory := Memory.ofBytes (bytes.take n)

/-- The state of R55 for a cartridge of an admitted size, before `reset()`. -/
def atPowerOn (c : Setup) (size : PrgSize) : State :=
  { State.reset with
    ram := initialMemory Config.ramBytes c.ram
    prgRom := Memory.ofBytes c.prgRom
    prgSize := size
    ppu := Ppu.atPowerOn c.scanline c.dot (Memory.ofBytes c.chrRom) c.mirroring (initialMemory Config.vramBytes c.vram)
      (initialMemory Config.paletteBytes c.palette) (initialMemory Config.oamBytes c.oam)
    params := c.params
    hostInputs := c.hostInputs }

/-- Is `PPU_RESET_POS` a position of the PPU (R8, R32)? -/
def Setup.positionOk (c : Setup) : Bool := decide (-1 ≤ c.scanline) && decide (c.scanline ≤ 260) && decide (c.dot ≤ 340)

/-- `PowerOn` (R500); images of other lengths are refused (R80, R90, U8, log 19). DEDUCED: so is a `PPU_RESET_POS` that is no position
of the PPU, since R15 refuses inputs outside their ranges and R8 and R32 give them (log 24). -/
def powerOn (c : Setup) : Result :=
  match PrgSize.ofLength c.prgRom.length with
  | none => .refused (.prgLength c.prgRom.length)
  | some size =>
    if c.chrRom.length ≠ Config.chrBytes then .refused (.chrLength c.chrRom.length)
    else if c.positionOk then .next (busTick c.resetCycleCost (cpuReset (atPowerOn c size)))
    else .refused (.ppuPosition c.scanline c.dot)

end Sys2Proof.Machine
end

