-- ==== Sys2Proof/Safety.lean ====
section
/-! DEFINITION. The terms that claims about the machine are stated in: the invariant of a core, the states in which a tick fetches,
where an instruction lies, and which instructions can stop. -/

namespace Sys2Proof

/-! ### Classes of instructions -/

/-- The 25 trapped instructions (R312). -/
def Instr.trapped : Instr → Bool
  | .jam _ | .anc _ | .alr | .arr | .ane | .sha _ | .tas | .shy | .shx | .lxa | .las | .sbx => true
  | .lda _ | .ldx _ | .ldy _ | .sta _ | .stx _ | .sty _ | .tax | .tay | .txa | .tya | .tsx | .txs => false
  | .adc _ | .sbc _ | .and _ | .ora _ | .eor _ | .cmp _ | .cpx _ | .cpy _ | .bit _ | .inc _ | .dec _ => false
  | .inx | .iny | .dex | .dey | .asl _ | .lsr _ | .rol _ | .ror _ => false
  | .bcc _ | .bcs _ | .beq _ | .bne _ | .bmi _ | .bpl _ | .bvc _ | .bvs _ | .jmp _ | .jmpInd _ | .jsr _ | .rts => false
  | .pha | .php | .pla | .plp | .clc | .sec | .cli | .sei | .clv | .cld | .sed | .nop | .brk | .rti => false
  | .lax _ | .sax _ | .dcp _ | .isb _ | .slo _ | .rla _ | .sre _ | .rra _ | .sbcEB _ | .nopImplied _ | .nopOperand _ _ => false

/-- The operand of an instruction that writes memory at a computed effective address (R462). -/
def Instr.storesTo : Instr → Option Operand
  | .sta o | .stx o | .sty o | .sax o | .inc o | .dec o | .dcp o | .isb o | .slo o | .rla o | .sre o | .rra o => some o
  | .asl o | .lsr o | .rol o | .ror o => if o = .acc then none else some o
  | .lda _ | .ldx _ | .ldy _ | .tax | .tay | .txa | .tya | .tsx | .txs => none
  | .adc _ | .sbc _ | .and _ | .ora _ | .eor _ | .cmp _ | .cpx _ | .cpy _ | .bit _ | .inx | .iny | .dex | .dey => none
  | .bcc _ | .bcs _ | .beq _ | .bne _ | .bmi _ | .bpl _ | .bvc _ | .bvs _ | .jmp _ | .jmpInd _ | .jsr _ | .rts => none
  | .pha | .php | .pla | .plp | .clc | .sec | .cli | .sei | .clv | .cld | .sed | .nop | .brk | .rti => none
  | .lax _ | .sbcEB _ | .nopImplied _ | .nopOperand _ _ => none
  | .jam _ | .anc _ | .alr | .arr | .ane | .sha _ | .tas | .shy | .shx | .lxa | .las | .sbx => none

/-- The data operand of an instruction that has one. -/
def Instr.operand : Instr → Option Operand
  | .lda o | .ldx o | .ldy o | .sta o | .stx o | .sty o => some o
  | .adc o | .sbc o | .and o | .ora o | .eor o | .cmp o | .cpx o | .cpy o | .bit o | .inc o | .dec o => some o
  | .asl o | .lsr o | .rol o | .ror o => some o
  | .lax o | .sax o | .dcp o | .isb o | .slo o | .rla o | .sre o | .rra o | .nopOperand _ o => some o
  | .sbcEB v => some (.imm v)
  | .tax | .tay | .txa | .tya | .tsx | .txs | .inx | .iny | .dex | .dey => none
  | .bcc _ | .bcs _ | .beq _ | .bne _ | .bmi _ | .bpl _ | .bvc _ | .bvs _ | .jmp _ | .jmpInd _ | .jsr _ | .rts => none
  | .pha | .php | .pla | .plp | .clc | .sec | .cli | .sei | .clv | .cld | .sed | .nop | .brk | .rti | .nopImplied _ => none
  | .jam _ | .anc _ | .alr | .arr | .ane | .sha _ | .tas | .shy | .shx | .lxa | .las | .sbx => none

/-- The displacement of a branch. -/
def Instr.displacement : Instr → Option Byte
  | .bcc d | .bcs d | .beq d | .bne d | .bmi d | .bpl d | .bvc d | .bvs d => some d
  | _ => none

/-- The bytes of a JMP-indirect pointer's target lie at addresses whose reads have no side effect (U7); every other instruction
has no such condition. -/
def Instr.pointerReadable : Instr → Bool
  | .jmpInd pointer => !Machine.sideEffectRead pointer && !Machine.sideEffectRead (Machine.pointerHigh pointer)
  | _ => true

end Sys2Proof

namespace Sys2Proof.Machine

/-! ### The invariant -/

/-- A memory in its canonical form with every listed cell below its size. -/
abbrev MemoryOk (n : Nat) (m : Memory) : Prop := m.wf = true ∧ m.within n = true

/-- The memories of the PPU (R48, R90 to R92). -/
abbrev PpuMemoriesOk (u : Ppu) : Prop :=
  MemoryOk Config.chrBytes u.chrRom ∧ MemoryOk Config.vramBytes u.vram ∧ MemoryOk Config.paletteBytes u.palette ∧
    MemoryOk Config.oamBytes u.oam

/-- The position (R32), the eight sprite units (R44) and the pictures (R47). -/
abbrev PpuShapeOk (u : Ppu) : Prop :=
  (-1 ≤ u.scanline ∧ u.scanline ≤ 260) ∧ u.dot ≤ 340 ∧ (u.sprites.length = Config.stagedSprites ∧ u.spriteCount ≤ Config.stagedSprites) ∧
    u.frameBuffer.wf = true ∧ u.completedFrame.wf = true

/-- What holds of the PPU in every state a run reaches. -/
abbrev Ppu.Inv (u : Ppu) : Prop := PpuMemoriesOk u ∧ PpuShapeOk u

/-- The joypad's index (R52, R440, R441): at most 8, and 0 while the strobe is armed. -/
abbrev Joypad.Inv (j : Joypad) : Prop := j.index ≤ 8 ∧ (j.strobe = true → j.index = 0)

/-- Bit 4 of the live status is 0 and bit 5 is 1 (R26). -/
abbrev StatusOk (p : Byte) : Prop := flagOf p .b = false ∧ flagOf p .u = true

/-- What holds in every state a run reaches. -/
abbrev State.Inv (s : State) : Prop :=
  MemoryOk Config.ramBytes s.ram ∧ MemoryOk s.prgSize.bytes s.prgRom ∧ StatusOk s.p ∧ s.cycles ≤ 8 ∧ s.joypad.Inv ∧ s.ppu.Inv

/-! ### Fetching -/

/-- The tick is idle and no NMI is pending: it fetches an instruction (R150, R152). -/
abbrev State.Fetches (s : State) : Prop := s.run = .running ∧ s.cycles = 0 ∧ s.ppu.nmiPending = false

/-- The bytes of an instruction lie at `pc` and after it. -/
abbrev State.Holds (s : State) (i : Instr) : Prop :=
  ∀ k : Fin 3, k.val < (encode i).length → (encode i)[k.val]? = some (peek s (s.pc + BitVec.ofNat 16 k.val))

/-- None of them lies at an address whose reads have side effects (U7). -/
abbrev State.Fetchable (s : State) (i : Instr) : Prop :=
  ∀ k : Fin 3, k.val < (encode i).length → sideEffectRead (s.pc + BitVec.ofNat 16 k.val) = false

/-! ### Costs (R155) -/

/-- Does the indexed address cross a page (R172)? -/
def crosses (i : Instr) (s : State) : Bool :=
  match i.operand.bind fun o => effective o s with
  | some e => e.crossed
  | none => false

/-- The branch bonuses (R250): 1 when taken, 1 more when the target lies in another page than the next instruction. -/
def branchBonus (i : Instr) (s : State) : Nat :=
  match i.displacement with
  | some d => if branchNotTaken i s then 0 else if pageCrossed (s.pc + 1) (s.pc + 1 + sext16 d) then 2 else 1
  | none => 0

/-- The total cost by the columns of a table row (R155). -/
def tableCost (row : Row) (i : Instr) (s : State) : Nat :=
  row.baseCycles + (if row.pageCrossBonus && crosses i s then 1 else 0) + branchBonus i s

/-! ### What a statement says is unchanged -/

/-- The four registers that `WriteReg` writes (R20). -/
abbrev State.registers (s : State) : Byte × Byte × Byte × Byte := (s.a, s.x, s.y, s.sp)

/-- Everything but the register file, the pending counter, `run`, RAM, the PPU and the joypad. -/
abbrev SameHost (s t : State) : Prop :=
  t.busCycles = s.busCycles ∧ t.prgRom = s.prgRom ∧ t.prgSize = s.prgSize ∧ t.params = s.params ∧ t.hostInputs = s.hostInputs ∧
    t.callbacks = s.callbacks

/-- No store was made: every address reads as before, and the PPU and the joypad are the same. -/
abbrev SameMemory (s t : State) : Prop :=
  (∀ a : Addr, peek t a = peek s a) ∧ t.ram = s.ram ∧ t.ppu = s.ppu ∧ t.joypad = s.joypad

/-- An instruction that makes no store and no access with a side effect, and goes on. -/
abbrev Quiet (s t : State) : Prop := SameHost s t ∧ SameMemory s t ∧ t.run = s.run

/-- An address in the PPU register window (R74). -/
abbrev inPpuWindow (a : Addr) : Prop := 0x2000#16 ≤ a ∧ a ≤ 0x3FFF#16

/-- Two addresses of the RAM window designate one cell (R75). -/
abbrev sameRamCell (a e : Addr) : Prop := a ≤ 0x1FFF#16 ∧ e ≤ 0x1FFF#16 ∧ a.toNat % 0x800 = e.toNat % 0x800

/-- What one store of `v` at `e` did to memory and devices, region by region (R74, R421); `s` is the state it was made in. -/
abbrev Stored (s t : State) (e : Addr) (v : Byte) : Prop :=
  (e ≤ 0x1FFF#16 → (∀ a, sameRamCell a e → peek t a = v) ∧ (∀ a, ¬ sameRamCell a e → peek t a = peek s a) ∧
      t.ppu = s.ppu ∧ t.joypad = s.joypad) ∧
  (inPpuWindow e → t.ppu = ppuRegWrite s.ppu (ppuRegister e) v ∧ t.joypad = s.joypad ∧
      ∀ a, ¬ inPpuWindow a → peek t a = peek s a) ∧
  (e = 0x4014#16 → t.ppu = (oamDma s v).ppu ∧ t.joypad = (oamDma s v).joypad ∧
      ∀ a, ¬ inPpuWindow a → a ≠ 0x4016#16 → peek t a = peek s a) ∧
  (e = 0x4016#16 → t.joypad = joypadWrite s.joypad v ∧ t.ppu = s.ppu ∧ ∀ a, a ≠ 0x4016#16 → peek t a = peek s a) ∧
  (0x4000#16 ≤ e → e ≤ 0x7FFF#16 → e ≠ 0x4014#16 → e ≠ 0x4016#16 → SameMemory s t)

/-- The bytes pushed, first one first, each at `$0100` plus the stack pointer of its push (R176); every other address reads as
before. -/
abbrev Pushed (s t : State) (bytes : List Byte) : Prop :=
  t.sp = s.sp - BitVec.ofNat 8 bytes.length ∧
  (∀ k : Fin 3, ∀ v, bytes[k.val]? = some v → peek t (0x0100#16 + zext16 (s.sp - BitVec.ofNat 8 k.val)) = v) ∧
  ∀ a, (∀ k : Fin 3, k.val < bytes.length → ¬ sameRamCell a (0x0100#16 + zext16 (s.sp - BitVec.ofNat 8 k.val))) →
    peek t a = peek s a

/-! ### The dots of a scanline (R372) -/

/-- The dot number that the phases of one dot see: the PPU's, after the dot-0 skip (R373). -/
abbrev dotNumber (skip : Bool) (u : Ppu) : Nat := if skip = true ∧ u.scanline = 0 ∧ u.dot = 0 then 1 else u.dot

/-- The PPU is on one of the scanlines that fetch: -1 to 239 (R372). -/
abbrev fetchLine (u : Ppu) : Prop := -1 ≤ u.scanline ∧ u.scanline ≤ 239

/-- The fetch window: dots 2 to 257 and 321 to 337 (R375). -/
abbrev fetchDot (d : Nat) : Prop := (2 ≤ d ∧ d ≤ 257) ∨ (321 ≤ d ∧ d ≤ 337)

/-- The 2-bit colour number at the end of a sprite unit's two shifters (R393). -/
abbrev unitColor (q : SpriteUnit) : Nat := 2 * (q.shifterHi.getLsbD 7).toNat + (q.shifterLo.getLsbD 7).toNat

/-- The unit shows an opaque pixel now: its counter is 0 and its colour number is not (R393). -/
abbrev unitOpaque (q : SpriteUnit) : Prop := q.x = 0 ∧ unitColor q ≠ 0

/-! ### What a statement says of the status -/

/-- Every flag but these is unchanged. -/
abbrev KeepsFlagsBut (p q : Byte) (changed : List Flag) : Prop := ∀ f : Flag, f ∉ changed → flagOf q f = flagOf p f

/-- Z and N are those of `v`, every other flag is unchanged (R12, R30). -/
abbrev SetsZN (p q v : Byte) : Prop :=
  flagOf q .z = decide (v = 0) ∧ flagOf q .n = v.getLsbD 7 ∧ KeepsFlagsBut p q [.z, .n]

/-- C has this value, Z and N are those of `v`, every other flag is unchanged. -/
abbrev SetsCZN (p q : Byte) (c : Bool) (v : Byte) : Prop :=
  flagOf q .c = c ∧ flagOf q .z = decide (v = 0) ∧ flagOf q .n = v.getLsbD 7 ∧ KeepsFlagsBut p q [.c, .z, .n]

/-- `q` and `r` are the status and the accumulator after `a + m + carry` from status `p` (R210), as integers: C is the carry out
of bit 7, V says that the signed sum does not fit in 8 bits. -/
abbrev Added (p q a m r : Byte) (carry : Bool) : Prop :=
  r.toNat = (a.toNat + m.toNat + carry.toNat) % 256 ∧
  flagOf q .c = decide (256 ≤ a.toNat + m.toNat + carry.toNat) ∧
  flagOf q .v = decide (a.toInt + m.toInt + (carry.toNat : Int) < -128 ∨ 127 < a.toInt + m.toInt + (carry.toNat : Int)) ∧
  flagOf q .z = decide (r = 0) ∧ flagOf q .n = r.getLsbD 7 ∧ KeepsFlagsBut p q [.c, .z, .v, .n]

/-- The same for `a - m - (1 - carry)` (R212): C says that nothing was borrowed. -/
abbrev Subtracted (p q a m r : Byte) (carry : Bool) : Prop :=
  (r.toNat : Int) = ((a.toNat : Int) - m.toNat - (1 - carry.toNat)) % 256 ∧
  flagOf q .c = decide (m.toNat + (1 - carry.toNat) ≤ a.toNat) ∧
  flagOf q .v = decide (a.toInt - m.toInt - (1 - (carry.toNat : Int)) < -128 ∨ 127 < a.toInt - m.toInt - (1 - (carry.toNat : Int))) ∧
  flagOf q .z = decide (r = 0) ∧ flagOf q .n = r.getLsbD 7 ∧ KeepsFlagsBut p q [.c, .z, .v, .n]

end Sys2Proof.Machine
end

