-- ==== Sys2Proof/Certificates/Slice0/Obligations.lean ====
section
/-! DEFINITION. The statements about the machine, from the numbered rules of spec/. The words they are stated in are in
Safety.lean. `exec` is stated at a state whose `pc` is `pc0 +16 1`, as in the rules (R153, R160). -/

open Sys2Proof Sys2Proof.Machine

/-! ### Encoding and decoding (30_encoding) -/

/-- Decoding the bytes of a well-formed instruction gives it back, whatever follows them (R120, R121, R124). -/
def Obligations.EncodeThenDecode : Prop :=
  ∀ (i : Instr) (rest : List Byte), i.wellFormed = true → decode (encode i ++ rest) = .ok (i, rest)

/-- Whatever the decoder reads is well formed and its encoding is the bytes read; only an empty or truncated list is rejected
(R120, R124). -/
def Obligations.DecodeThenEncode : Prop :=
  ∀ bytes : List Byte,
    (∀ i rest, decode bytes = .ok (i, rest) → i.wellFormed = true ∧ encode i ++ rest = bytes) ∧
    (3 ≤ bytes.length → ∃ i rest, decode bytes = .ok (i, rest))

/-- Words written out from the Encoding lines of the rules decode to their instructions. -/
def Obligations.WordsOfTheSpecDecode : Prop :=
  decode [0xA9, 0x42] = .ok (.lda (.imm 0x42), []) ∧
  decode [0x8D, 0x14, 0x40] = .ok (.sta (.abs 0x4014), []) ∧
  decode [0x71, 0x10] = .ok (.adc (.izy 0x10), []) ∧
  decode [0x6A] = .ok (.ror .acc, []) ∧
  decode [0x6C, 0xFF, 0x02] = .ok (.jmpInd 0x02FF, []) ∧
  decode [0x28] = .ok (.plp, []) ∧
  decode [0xB7, 0x10] = .ok (.lax (.zpy 0x10), [])

/-! ### The tick (40, 60) -/

/-- A tick that fetches runs the instruction whose bytes lie at `pc`, with `pc` moved past the opcode byte, and then gives the
bus the cycles the instruction cost; a halt, a fault or a refusal ends it at once (R150, R153, R155, R157). -/
def Obligations.StepRunsDecoded : Prop :=
  ∀ (s : State) (i : Instr), s.Fetches → i.wellFormed = true → s.Holds i → s.Fetchable i →
    (∀ t, exec i { s with pc := s.pc + 1 } = .next t →
      (t.run = .running → step s = .next (busTick t.cycles t)) ∧ (t.run ≠ .running → step s = .next t)) ∧
    (∀ e, exec i { s with pc := s.pc + 1 } = .fault e → step s = .fault e) ∧
    (∀ e, exec i { s with pc := s.pc + 1 } = .refused e → step s = .refused e)

/-- The first byte of an instruction, opcode or operand, that is read at an address whose reads have side effects is refused (R100,
U7, log 8), whatever the instruction; the operand byte of a branch that is not taken is not read (R170). -/
def Obligations.UnfetchableBytes : Prop :=
  ∀ s : State, s.Fetches →
    (sideEffectRead s.pc = true → step s = .refused (.instructionByteAt s.pc)) ∧
    (∀ (i : Instr) (k : Fin 3), i.wellFormed = true → s.Holds i → k.val < (encode i).length →
      (∀ j : Fin 3, j < k → sideEffectRead (s.pc + BitVec.ofNat 16 j.val) = false) →
      sideEffectRead (s.pc + BitVec.ofNat 16 k.val) = true →
      (i.displacement = none → step s = .refused (.instructionByteAt (s.pc + BitVec.ofNat 16 k.val)))) ∧
    (∀ (d : Byte) (i : Instr) (taken : Bool),
      (i, taken) ∈ ([(.bcc d, !flagOf s.p .c), (.bcs d, flagOf s.p .c), (.beq d, flagOf s.p .z), (.bne d, !flagOf s.p .z),
          (.bmi d, flagOf s.p .n), (.bpl d, !flagOf s.p .n), (.bvc d, !flagOf s.p .v), (.bvs d, flagOf s.p .v)]
          : List (Instr × Bool)) →
      s.Holds i → sideEffectRead s.pc = false → sideEffectRead (s.pc + 1) = true →
      (taken = true → step s = .refused (.instructionByteAt (s.pc + 1))) ∧
      (taken = false → step s = .next (busTick 2 { s with pc := s.pc + 2, cycles := 2 })))

/-- A stalling tick changes the pending counter only, and a machine that is not running does not move (R150, R151, R461). -/
def Obligations.StallingAndStoppedTicks : Prop :=
  ∀ s : State,
    (s.run = .running → 0 < s.cycles → step s = .next { s with cycles := s.cycles - 1 }) ∧
    (s.run ≠ .running → step s = .next s)

/-- The NMI entry (R152, R433, R470): what an idle tick with a pending request pushes, changes and where it goes, before any
instruction is fetched; `u` is the state before its seven cycles are given to the bus. -/
def Obligations.NmiEntry : Prop :=
  ∀ s : State, s.Inv → s.run = .running → s.cycles = 0 → s.ppu.nmiPending = true →
    ∃ u, step s = .next (busTick 7 u) ∧
      Pushed s u [hiByte s.pc, loByte s.pc, (s.p &&& 0xEF) ||| 0x20] ∧
      u.pc = wordOf (peek s 0xFFFB) (peek s 0xFFFA) ∧
      flagOf u.p .i = true ∧ KeepsFlagsBut s.p u.p [.i] ∧
      u.cycles = 7 ∧ u.a = s.a ∧ u.x = s.x ∧ u.y = s.y ∧ u.run = .running ∧
      u.ppu = { s.ppu with nmiPending := false } ∧ u.joypad = s.joypad ∧ SameHost s u

/-- `BusTick(n)` (R430, R431): the counter grows by `n`, the PPU makes `3 n` dots, a report calls the host once, and the host
may only assign the buttons (R432). -/
def Obligations.BusTickAdvances : Prop :=
  ∀ (s : State) (n : Nat),
    (busTick n s).busCycles = s.busCycles + n ∧
    (busTick n s).ppu = ppuTick s.params.skipDot0 (3 * n) s.ppu ∧
    (busTick n s).registers = s.registers ∧ (busTick n s).p = s.p ∧ (busTick n s).pc = s.pc ∧
    (busTick n s).cycles = s.cycles ∧ (busTick n s).run = s.run ∧ (busTick n s).ram = s.ram ∧
    (busTick n s).joypad.strobe = s.joypad.strobe ∧ (busTick n s).joypad.index = s.joypad.index ∧
    (ppuTickReports s.params.skipDot0 (3 * n) s.ppu = false →
      (busTick n s).callbacks = s.callbacks ∧ (busTick n s).joypad = s.joypad ∧ (busTick n s).hostInputs = s.hostInputs) ∧
    (ppuTickReports s.params.skipDot0 (3 * n) s.ppu = true → (busTick n s).callbacks = s.callbacks + 1 ∧
      (s.hostInputs = [] → (busTick n s).joypad = s.joypad) ∧
      (∀ b rest, s.hostInputs = b :: rest → (busTick n s).joypad.buttons = b ∧ (busTick n s).hostInputs = rest))

/-! ### Stops and completion (60) -/

/-- An instruction raises `UnknownOpcode`, with its byte and the address it was fetched from, exactly when its byte is one of the 25
that are not admitted (R312, R463). -/
def Obligations.TrappedOpcodesFault : Prop :=
  ∀ (i : Instr) (s : State) (code : Byte), i.wellFormed = true → i.opcode = some code →
    (exec i s = .fault (.unknownOpcode code (s.pc - 1)) ↔
      code ∈ ([0x02, 0x12, 0x22, 0x32, 0x42, 0x52, 0x62, 0x72, 0x92, 0xB2, 0xD2, 0xF2, 0x0B, 0x2B, 0x4B, 0x6B, 0x8B, 0x93, 0x9F,
        0x9B, 0x9C, 0x9E, 0xAB, 0xBB, 0xCB] : List Byte))

/-- `RomWrite` is raised by exactly the instructions that write memory at a computed effective address, when that address is
`$8000` or above (R81, R462), no other fault is raised by an admitted instruction (R463, R464), and the value that a
read-modify-write instruction reports is the one it would have stored (R460); StoreInstructions says the value of a store. -/
def Obligations.FaultsOfAdmittedInstructions : Prop :=
  ∀ (i : Instr) (s : State), i.wellFormed = true → i.trapped = false →
    (∀ o e, i.storesTo = some o → effective o s = some e → 0x8000#16 ≤ e.addr → ∃ v, exec i s = .fault (.romWrite e.addr v)) ∧
    (∀ f, exec i s = .fault f →
      ∃ o e v, i.storesTo = some o ∧ effective o s = some e ∧ 0x8000#16 ≤ e.addr ∧ f = .romWrite e.addr v) ∧
    (∀ o e (r : Nat), effective o s = some e → 0x8000#16 ≤ e.addr →
      (i, r) ∈ (let m := (peek s e.addr).toNat
                let k := (flagOf s.p .c).toNat
                [(.inc o, m + 1), (.dec o, m + 255), (.dcp o, m + 255), (.isb o, m + 1),
                 (.asl o, 2 * m), (.lsr o, m / 2), (.rol o, 2 * m + k), (.ror o, m / 2 + 128 * k),
                 (.slo o, 2 * m), (.sre o, m / 2), (.rla o, 2 * m + k), (.rra o, m / 2 + 128 * k)] : List (Instr × Nat)) →
      exec i s = .fault (.romWrite e.addr (BitVec.ofNat 8 r)))

/-- Every admitted instruction answers a next state, unless its store goes to ROM or its indirect pointer cannot be read
(R13, R462, R466, U7). -/
def Obligations.AdmittedInstructionsComplete : Prop :=
  ∀ (i : Instr) (s : State), i.wellFormed = true → i.trapped = false → i.pointerReadable = true →
    (∀ o e, i.storesTo = some o → effective o s = some e → e.addr < 0x8000#16) →
    ∃ t, exec i s = .next t

/-- The cost of every instruction: the base cycles of its row, 1 more for a crossed page where the row has the bonus, 1 or 2 more
for a taken branch; a BRK that halts adds nothing (R126, R155, R174, R250, R282). -/
def Obligations.CostFollowsTheTable : Prop :=
  ∀ (i : Instr) (s t : State) (code : Byte), i.wellFormed = true → i.opcode = some code → exec i s = .next t →
    ((i ≠ .brk ∨ s.params.brkMode = .interrupt) → t.cycles = s.cycles + tableCost (opcodeRow code) i s) ∧
    (i = .brk → s.params.brkMode = .halt → t.cycles = s.cycles)

/-- A tick that fetches and goes on adds to `bus.cycles` what it leaves in the pending counter, and that is 2 to 8
(R155, R157, R531, R535). -/
def Obligations.StepAccountsForTime : Prop :=
  ∀ s t : State, s.Fetches → step s = .next t → t.run = .running →
    t.busCycles = s.busCycles + t.cycles ∧ 2 ≤ t.cycles ∧ t.cycles ≤ 8

/-! ### Operand forms (40) -/

/-- The effective address of every operand form that has one, and whether it crossed a page (R160 to R168, R172); the accumulator
has none (R169). An immediate operand is the byte itself, read without an effect; every other operand is what a read at the
effective address gives, with that read's effect. -/
def Obligations.EffectiveAddresses : Prop :=
  ∀ (s : State) (b : Byte) (w : Addr),
    effective (.imm b) s = some { addr := s.pc, crossed := false } ∧
    (∃ e, effective (.zp b) s = some e ∧ e.addr.toNat = b.toNat ∧ e.crossed = false) ∧
    (∃ e, effective (.zpx b) s = some e ∧ e.addr.toNat = (b.toNat + s.x.toNat) % 256 ∧ e.crossed = false) ∧
    (∃ e, effective (.zpy b) s = some e ∧ e.addr.toNat = (b.toNat + s.y.toNat) % 256 ∧ e.crossed = false) ∧
    effective (.abs w) s = some { addr := w, crossed := false } ∧
    (∃ e, effective (.abx w) s = some e ∧ e.addr.toNat = (w.toNat + s.x.toNat) % 65536 ∧
      e.crossed = decide (e.addr.toNat / 256 ≠ w.toNat / 256)) ∧
    (∃ e, effective (.aby w) s = some e ∧ e.addr.toNat = (w.toNat + s.y.toNat) % 65536 ∧
      e.crossed = decide (e.addr.toNat / 256 ≠ w.toNat / 256)) ∧
    (∃ e, effective (.izx b) s = some e ∧ e.crossed = false ∧
      e.addr.toNat = 256 * (s.ram.read ((b.toNat + s.x.toNat + 1) % 256)).toNat + (s.ram.read ((b.toNat + s.x.toNat) % 256)).toNat) ∧
    (∃ e, effective (.izy b) s = some e ∧
      (let base := 256 * (s.ram.read ((b.toNat + 1) % 256)).toNat + (s.ram.read b.toNat).toNat
       e.addr.toNat = (base + s.y.toNat) % 65536 ∧ e.crossed = decide (e.addr.toNat / 256 ≠ base / 256))) ∧
    effective .acc s = none ∧
    (∀ e, operandValue (.imm b) e s = b ∧ afterOperand (.imm b) e s = s) ∧
    (∀ o e, (∀ v, o ≠ .imm v) → operandValue o e s = peek s e.addr ∧ afterOperand o e s = afterRead s e.addr)

/-- The side effects of reads (R86): a read at any address but Status, Data (and their mirrors) and `$4016` changes nothing, and
what those three change. -/
def Obligations.ReadSideEffects : Prop :=
  ∀ (s : State) (a : Addr),
    (¬ (inPpuWindow a ∧ (a.toNat % 8 = 2 ∨ a.toNat % 8 = 7)) → a ≠ 0x4016#16 → afterRead s a = s) ∧
    (inPpuWindow a → a.toNat % 8 = 2 →
      afterRead s a = { s with ppu := { s.ppu with verticalBlank := false, writeToggle := false } }) ∧
    (inPpuWindow a → a.toNat % 8 = 7 →
      afterRead s a = { s with ppu := { s.ppu with
        dataBuffer := ppuRead s.ppu (s.ppu.vramAddr.setWidth 14)
        vramAddr := BitVec.ofNat 15 (s.ppu.vramAddr.toNat + if s.ppu.control.getLsbD 2 then 32 else 1) } }) ∧
    (a = 0x4016#16 →
      afterRead s a = { s with joypad := { s.joypad with
        index := if s.joypad.strobe = true ∨ 7 < s.joypad.index then s.joypad.index else s.joypad.index + 1 } })

/-! ### Loads, stores, transfers (41, 46) -/

/-- LDA, LDX, LDY and LAX complete at every operand form they have: the destination takes the operand, Z and N follow it, and
nothing else changes but what the operand read itself changes (R190 to R192, R301). -/
def Obligations.LoadInstructions : Prop :=
  ∀ (s : State) (o : Operand) (e : Effective), effective o s = some e →
    ∀ (i : Instr) (r : Byte × Byte × Byte × Byte),
      (i, r) ∈ (let m := operandValue o e s
                [(.lda o, (m, s.x, s.y, s.sp)), (.ldx o, (s.a, m, s.y, s.sp)), (.ldy o, (s.a, s.x, m, s.sp)),
                 (.lax o, (m, m, s.y, s.sp))] : List (Instr × (Byte × Byte × Byte × Byte))) →
      i.wellFormed = true →
      ∃ t, exec i s = .next t ∧ t.registers = r ∧ SetsZN s.p t.p (operandValue o e s) ∧ Quiet (afterOperand o e s) t ∧
        t.pc = s.pc + BitVec.ofNat 16 o.bytes.length

/-- STA, STX, STY and SAX complete below `$8000` and store their register there, and fault at and above it (R193 to R195, R302, R421,
R81); no register and no flag changes. -/
def Obligations.StoreInstructions : Prop :=
  ∀ (s : State) (o : Operand) (e : Effective), s.Inv → effective o s = some e →
    ∀ (i : Instr) (v : Byte),
      (i, v) ∈ ([(.sta o, s.a), (.stx o, s.x), (.sty o, s.y), (.sax o, s.a &&& s.x)] : List (Instr × Byte)) →
      i.wellFormed = true →
      (e.addr < 0x8000#16 → ∃ t, exec i s = .next t ∧ Stored s t e.addr v ∧ t.registers = s.registers ∧ t.p = s.p ∧
        SameHost s t ∧ t.run = s.run ∧ t.pc = s.pc + BitVec.ofNat 16 o.bytes.length) ∧
      (0x8000#16 ≤ e.addr → exec i s = .fault (.romWrite e.addr v))

/-- The transfers and the register increments and decrements (R196 to R201, R223 to R226): their byte, the new registers, Z and N of
the value written, and the two cycles; TXS changes no flag. -/
def Obligations.RegisterInstructions : Prop :=
  ∀ (s : State) (i : Instr) (code : Byte) (r : Byte × Byte × Byte × Byte) (v : Byte),
    (i, code, r, v) ∈ ([(.tax, 0xAA, (s.a, s.a, s.y, s.sp), s.a), (.tay, 0xA8, (s.a, s.x, s.a, s.sp), s.a),
        (.txa, 0x8A, (s.x, s.x, s.y, s.sp), s.x), (.tya, 0x98, (s.y, s.x, s.y, s.sp), s.y),
        (.tsx, 0xBA, (s.a, s.sp, s.y, s.sp), s.sp), (.txs, 0x9A, (s.a, s.x, s.y, s.x), s.x),
        (.inx, 0xE8, (s.a, s.x + 1, s.y, s.sp), s.x + 1), (.iny, 0xC8, (s.a, s.x, s.y + 1, s.sp), s.y + 1),
        (.dex, 0xCA, (s.a, s.x - 1, s.y, s.sp), s.x - 1), (.dey, 0x88, (s.a, s.x, s.y - 1, s.sp), s.y - 1)]
        : List (Instr × Byte × (Byte × Byte × Byte × Byte) × Byte)) →
    encode i = [code] ∧
    ∃ t, exec i s = .next t ∧ t.registers = r ∧ (i ≠ .txs → SetsZN s.p t.p v) ∧ (i = .txs → t.p = s.p) ∧ Quiet s t ∧
      t.pc = s.pc ∧ t.cycles = s.cycles + 2

/-! ### Arithmetic and logic (42) -/

/-- ADC, SBC and the second SBC (R210 to R212, R227, R309), in integers; the decimal flag changes nothing. -/
def Obligations.AddAndSubtract : Prop :=
  ∀ (s : State) (o : Operand) (e : Effective), effective o s = some e →
    (∀ i : Instr, i = .adc o → i.wellFormed = true →
      ∃ t, exec i s = .next t ∧ Added s.p t.p s.a (operandValue o e s) t.a (flagOf s.p .c) ∧ t.registers = (t.a, s.x, s.y, s.sp) ∧
        Quiet (afterOperand o e s) t ∧ t.pc = s.pc + BitVec.ofNat 16 o.bytes.length) ∧
    (∀ i : Instr, (i = .sbc o ∨ ∃ v, o = .imm v ∧ i = .sbcEB v) → i.wellFormed = true →
      ∃ t, exec i s = .next t ∧ Subtracted s.p t.p s.a (operandValue o e s) t.a (flagOf s.p .c) ∧
        t.registers = (t.a, s.x, s.y, s.sp) ∧ Quiet (afterOperand o e s) t ∧ t.pc = s.pc + BitVec.ofNat 16 o.bytes.length)

/-- AND, ORA and EOR (R213 to R215), bit by bit. -/
def Obligations.LogicInstructions : Prop :=
  ∀ (s : State) (o : Operand) (e : Effective), effective o s = some e →
    ∀ (i : Instr) (f : Bool → Bool → Bool),
      (i = .and o ∧ f = and ∨ i = .ora o ∧ f = or ∨ i = .eor o ∧ f = xor) → i.wellFormed = true →
      ∃ t, exec i s = .next t ∧ (∀ k < 8, t.a.getLsbD k = f (s.a.getLsbD k) ((operandValue o e s).getLsbD k)) ∧
        t.registers = (t.a, s.x, s.y, s.sp) ∧ SetsZN s.p t.p t.a ∧ Quiet (afterOperand o e s) t ∧
        t.pc = s.pc + BitVec.ofNat 16 o.bytes.length

/-- CMP, CPX and CPY (R216 to R219): C is the unsigned comparison, Z equality, N the sign of the difference. BIT (R220): Z from the
AND with A, N and V from the operand. None of them changes a register. -/
def Obligations.CompareAndBitInstructions : Prop :=
  ∀ (s : State) (o : Operand) (e : Effective), effective o s = some e →
    (∀ (i : Instr) (v : Byte), (i, v) ∈ ([(.cmp o, s.a), (.cpx o, s.x), (.cpy o, s.y)] : List (Instr × Byte)) →
      i.wellFormed = true →
      ∃ t, exec i s = .next t ∧
        flagOf t.p .c = decide ((operandValue o e s).toNat ≤ v.toNat) ∧ flagOf t.p .z = decide (v = operandValue o e s) ∧
        flagOf t.p .n = (v - operandValue o e s).getLsbD 7 ∧ KeepsFlagsBut s.p t.p [.c, .z, .n] ∧
        t.registers = s.registers ∧ Quiet (afterOperand o e s) t ∧ t.pc = s.pc + BitVec.ofNat 16 o.bytes.length) ∧
    ((Instr.bit o).wellFormed = true →
      ∃ t, exec (.bit o) s = .next t ∧
        flagOf t.p .z = decide (s.a &&& operandValue o e s = 0) ∧ flagOf t.p .n = (operandValue o e s).getLsbD 7 ∧
        flagOf t.p .v = (operandValue o e s).getLsbD 6 ∧ KeepsFlagsBut s.p t.p [.z, .n, .v] ∧
        t.registers = s.registers ∧ Quiet (afterOperand o e s) t ∧ t.pc = s.pc + BitVec.ofNat 16 o.bytes.length)

/-- INC and DEC (R221, R222): one read, then one store of the stepped value below `$8000`; Z and N follow it. -/
def Obligations.IncrementMemory : Prop :=
  ∀ (s : State) (o : Operand) (e : Effective), s.Inv → effective o s = some e → e.addr < 0x8000#16 →
    ∀ (i : Instr) (r : Byte),
      (i, r) ∈ ([(.inc o, peek s e.addr + 1), (.dec o, peek s e.addr - 1)] : List (Instr × Byte)) → i.wellFormed = true →
      ∃ t, exec i s = .next t ∧ Stored (afterRead s e.addr) t e.addr r ∧ SetsZN s.p t.p r ∧ t.registers = s.registers ∧
        SameHost s t ∧ t.run = s.run ∧ t.pc = s.pc + BitVec.ofNat 16 o.bytes.length

/-! ### Shifts (43) -/

/-- The accumulator forms of ASL, LSR, ROL and ROR (R240 to R244), in integers. -/
def Obligations.ShiftAccumulator : Prop :=
  ∀ (s : State) (i : Instr) (r : Nat) (c : Bool),
    (i, r, c) ∈ (let v := s.a.toNat
                 let k := (flagOf s.p .c).toNat
                 [(.asl .acc, 2 * v % 256, s.a.getLsbD 7), (.lsr .acc, v / 2, s.a.getLsbD 0),
                  (.rol .acc, 2 * v % 256 + k, s.a.getLsbD 7), (.ror .acc, v / 2 + 128 * k, s.a.getLsbD 0)]
                 : List (Instr × Nat × Bool)) →
    ∃ t, exec i s = .next t ∧ t.a.toNat = r ∧ t.registers = (t.a, s.x, s.y, s.sp) ∧ SetsCZN s.p t.p c t.a ∧ Quiet s t ∧
      t.pc = s.pc

/-- Their memory forms: one read, then one store of the result below `$8000` (R240 to R244). -/
def Obligations.ShiftMemory : Prop :=
  ∀ (s : State) (o : Operand) (e : Effective), s.Inv → effective o s = some e → e.addr < 0x8000#16 →
    ∀ (i : Instr) (r : Nat) (c : Bool),
      (i, r, c) ∈ (let m := peek s e.addr
                   let k := (flagOf s.p .c).toNat
                   [(.asl o, 2 * m.toNat % 256, m.getLsbD 7), (.lsr o, m.toNat / 2, m.getLsbD 0),
                    (.rol o, 2 * m.toNat % 256 + k, m.getLsbD 7), (.ror o, m.toNat / 2 + 128 * k, m.getLsbD 0)]
                   : List (Instr × Nat × Bool)) → i.wellFormed = true →
      ∃ t, exec i s = .next t ∧ Stored (afterRead s e.addr) t e.addr (BitVec.ofNat 8 r) ∧ SetsCZN s.p t.p c (BitVec.ofNat 8 r) ∧
        t.registers = s.registers ∧ SameHost s t ∧ t.run = s.run ∧ t.pc = s.pc + BitVec.ofNat 16 o.bytes.length

/-! ### Control flow (44) -/

/-- The eight branches (R250 to R258, R156): where each goes, and that it changes nothing but `pc` and the pending counter. Under
`PC_ADVANCE_BY_VALUE_COMPARE` a taken branch to `pc0 +16 1` is advanced past its operand byte (U5, log 16). -/
def Obligations.Branches : Prop :=
  ∀ (s : State) (d : Byte) (i : Instr) (taken : Bool),
    (i, taken) ∈ ([(.bcc d, !flagOf s.p .c), (.bcs d, flagOf s.p .c), (.beq d, flagOf s.p .z), (.bne d, !flagOf s.p .z),
        (.bmi d, flagOf s.p .n), (.bpl d, !flagOf s.p .n), (.bvc d, !flagOf s.p .v), (.bvs d, flagOf s.p .v)]
        : List (Instr × Bool)) →
    ∃ t, exec i s = .next t ∧ t.registers = s.registers ∧ t.p = s.p ∧ Quiet s t ∧
      (taken = false → t.pc = s.pc + 1 ∧ t.cycles = s.cycles + 2) ∧
      (taken = true → ∃ target : Addr, (target.toNat : Int) = ((s.pc.toNat : Int) + 1 + d.toInt) % 65536 ∧
        t.pc = (if s.params.pcAdvanceByValueCompare = true ∧ target = s.pc then s.pc + 1 else target) ∧
        t.cycles = s.cycles + (if target.toNat / 256 = (s.pc + 1).toNat / 256 then 3 else 4))

/-- Where an instruction that sets `pc` leaves it: at its target, or, under `PC_ADVANCE_BY_VALUE_COMPARE`, `n` bytes further when
the target is `pc0 +16 1` (R156, U5, log 16). -/
def landsAt (s : State) (n : Nat) (target : Addr) : Addr :=
  if s.params.pcAdvanceByValueCompare = true ∧ target = s.pc then s.pc + BitVec.ofNat 16 n else target

/-- JMP absolute and indirect (R259, R260): the high byte of an indirect target is read from the pointer's own page; a pointer
that lies where reads have side effects is refused (U7). -/
def Obligations.Jumps : Prop :=
  ∀ (s : State) (w : Addr),
    (∃ t, exec (.jmp w) s = .next t ∧ t.pc = landsAt s 2 w ∧ t.registers = s.registers ∧ t.p = s.p ∧ Quiet s t) ∧
    (∀ high : Addr, high.toNat = 256 * (w.toNat / 256) + (w.toNat + 1) % 256 →
      (sideEffectRead w = false → sideEffectRead high = false →
        ∃ t, exec (.jmpInd w) s = .next t ∧ t.pc = landsAt s 2 (wordOf (peek s high) (peek s w)) ∧ t.registers = s.registers ∧
          t.p = s.p ∧ Quiet s t) ∧
      (sideEffectRead w = true → exec (.jmpInd w) s = .refused (.pointerByteAt w)) ∧
      (sideEffectRead w = false → sideEffectRead high = true → exec (.jmpInd w) s = .refused (.pointerByteAt high)))

/-- JSR (R261): the address of its last byte is pushed, high byte first, and `pc` goes to the operand; where the pushes themselves
write the cells the operand was fetched from, to the operand as they leave it (log 10). RTS (R262): `pc` is the word pulled, plus 1.
Where an instruction lands under `PC_ADVANCE_BY_VALUE_COMPARE` is log 16. -/
def Obligations.SubroutineCallAndReturn : Prop :=
  (∀ (s : State) (w : Addr), s.Inv →
    ∃ t, exec (.jsr w) s = .next t ∧ Pushed s t [hiByte (s.pc + 1), loByte (s.pc + 1)] ∧
      t.a = s.a ∧ t.x = s.x ∧ t.y = s.y ∧ t.p = s.p ∧ t.ppu = s.ppu ∧ t.joypad = s.joypad ∧ SameHost s t ∧ t.run = s.run ∧
      (peek t s.pc = peek s s.pc → peek t (s.pc + 1) = peek s (s.pc + 1) → t.pc = landsAt s 2 w) ∧
      (peek s s.pc = loByte w → peek s (s.pc + 1) = hiByte w → t.pc = landsAt s 2 (wordOf (peek t (s.pc + 1)) (peek t s.pc)))) ∧
  (∀ s : State,
    ∃ t, exec .rts s = .next t ∧
      t.pc = landsAt s 0 (wordOf (peek s (0x0100#16 + zext16 (s.sp + 2))) (peek s (0x0100#16 + zext16 (s.sp + 1))) + 1) ∧
      t.registers = (s.a, s.x, s.y, s.sp + 2) ∧ t.p = s.p ∧ Quiet s t)

/-! ### Stack, flags, system (45) -/

/-- PHA and PHP (R270, R271): one byte pushed, nothing else changed, three cycles; PHP pushes the status with bits 4 and 5 set. PLA and
PLP (R272, R273): the byte above the stack pointer goes to A with Z and N, or to the status with break cleared and break2 set; four
cycles. And the byte of each. -/
def Obligations.PushAndPullInstructions : Prop :=
  (∀ (s : State) (i : Instr) (code v : Byte), s.Inv →
    (i, code, v) ∈ ([(.pha, 0x48, s.a), (.php, 0x08, s.p ||| 0x30)] : List (Instr × Byte × Byte)) →
    encode i = [code] ∧
    ∃ t, exec i s = .next t ∧ t.cycles = s.cycles + 3 ∧ Pushed s t [v] ∧ t.registers = (s.a, s.x, s.y, t.sp) ∧ t.p = s.p ∧
      t.ppu = s.ppu ∧ t.joypad = s.joypad ∧ SameHost s t ∧ t.run = s.run ∧ t.pc = s.pc) ∧
  encode .pla = [0x68] ∧ encode .plp = [0x28] ∧
  (∀ s : State,
    (∃ t, exec .pla s = .next t ∧ t.registers = (peek s (0x0100#16 + zext16 (s.sp + 1)), s.x, s.y, s.sp + 1) ∧
      SetsZN s.p t.p t.a ∧ Quiet s t ∧ t.pc = s.pc ∧ t.cycles = s.cycles + 4) ∧
    (∃ t, exec .plp s = .next t ∧ t.registers = (s.a, s.x, s.y, s.sp + 1) ∧
      t.p = (peek s (0x0100#16 + zext16 (s.sp + 1)) &&& 0xEF) ||| 0x20 ∧ Quiet s t ∧ t.pc = s.pc ∧
      t.cycles = s.cycles + 4))

/-- The seven flag instructions (R274 to R280): their byte, one flag and nothing else, and two cycles. -/
def Obligations.FlagInstructions : Prop :=
  ∀ (s : State) (i : Instr) (code : Byte) (f : Flag) (b : Bool),
    (i, code, f, b) ∈ ([(.clc, 0x18, .c, false), (.sec, 0x38, .c, true), (.cli, 0x58, .i, false), (.sei, 0x78, .i, true),
        (.clv, 0xB8, .v, false), (.cld, 0xD8, .d, false), (.sed, 0xF8, .d, true)] : List (Instr × Byte × Flag × Bool)) →
    encode i = [code] ∧
    ∃ t, exec i s = .next t ∧ flagOf t.p f = b ∧ KeepsFlagsBut s.p t.p [f] ∧ t.registers = s.registers ∧ Quiet s t ∧
      t.pc = s.pc ∧ t.cycles = s.cycles + 2

/-- NOP and the unofficial NOPs (R281, R310, R311): only time passes, except that the operand read is made. -/
def Obligations.NoOperations : Prop :=
  ∀ s : State,
    (∀ i : Instr, (i = .nop ∨ ∃ code, i = .nopImplied code) → i.wellFormed = true →
      ∃ t, exec i s = .next t ∧ t.registers = s.registers ∧ t.p = s.p ∧ Quiet s t ∧ t.pc = s.pc) ∧
    (∀ code o e, effective o s = some e → (Instr.nopOperand code o).wellFormed = true →
      ∃ t, exec (.nopOperand code o) s = .next t ∧ t.registers = s.registers ∧ t.p = s.p ∧ Quiet (afterOperand o e s) t ∧
        t.pc = s.pc + BitVec.ofNat 16 o.bytes.length)

/-- BRK (R282, R472): in interrupt mode the entry through `$FFFE`, in halt mode the stop, to which nothing is added. -/
def Obligations.Break : Prop :=
  ∀ s : State, s.Inv →
    (s.params.brkMode = .interrupt →
      ∃ t, exec .brk s = .next t ∧ Pushed s t [hiByte (s.pc + 1), loByte (s.pc + 1), s.p ||| 0x30] ∧
        t.pc = wordOf (peek s 0xFFFF) (peek s 0xFFFE) ∧ flagOf t.p .i = true ∧ KeepsFlagsBut s.p t.p [.i] ∧
        t.a = s.a ∧ t.x = s.x ∧ t.y = s.y ∧ t.ppu = s.ppu ∧ t.joypad = s.joypad ∧ SameHost s t ∧ t.run = s.run) ∧
    (s.params.brkMode = .halt → exec .brk s = .next { s with run := .halted })

/-- RTI (R283, R474): the status with break cleared and break2 set, then `pc`, with nothing added. -/
def Obligations.ReturnFromInterrupt : Prop :=
  ∀ s : State,
    ∃ t, exec .rti s = .next t ∧ t.p = (peek s (0x0100#16 + zext16 (s.sp + 1)) &&& 0xEF) ||| 0x20 ∧
      t.pc = landsAt s 0 (wordOf (peek s (0x0100#16 + zext16 (s.sp + 3))) (peek s (0x0100#16 + zext16 (s.sp + 2)))) ∧
      t.registers = (s.a, s.x, s.y, s.sp + 3) ∧ Quiet s t

/-- An interrupt entry followed by RTI resumes at the pushed address with the interrupted status and registers (R474), and a JSR
followed by RTS goes on after the JSR (R262); the PPU, the joypad and every address but those of the stack cells written are as they
were. -/
def Obligations.ReturnsUndoEntries : Prop :=
  ∀ (s : State) (back vector w : Addr), s.Inv → s.params.pcAdvanceByValueCompare = false →
    (∀ status : Byte, status = withoutBreak s.p ∨ status = pushedWithBreak s.p →
      ∃ t, exec .rti (takeInterrupt back status vector s) = .next t ∧ t.pc = back ∧ t.p = s.p ∧ t.registers = s.registers ∧
        t.ppu = s.ppu ∧ t.joypad = s.joypad ∧ SameHost s t ∧ t.run = s.run ∧
        ∀ a, (∀ k : Fin 3, ¬ sameRamCell a (0x0100#16 + zext16 (s.sp - BitVec.ofNat 8 k.val))) → peek t a = peek s a) ∧
    (∃ u t, exec (.jsr w) s = .next u ∧ exec .rts { u with pc := u.pc + 1 } = .next t ∧ t.pc = s.pc + 2 ∧
      t.registers = s.registers ∧ t.p = s.p ∧ t.ppu = s.ppu ∧ t.joypad = s.joypad ∧ SameHost s t ∧ t.run = s.run ∧
      ∀ a, (∀ k : Fin 2, ¬ sameRamCell a (0x0100#16 + zext16 (s.sp - BitVec.ofNat 8 k.val))) → peek t a = peek s a)

/-- Words pushed are pulled in the opposite order (R178, R179), and the stack pointer comes back (R176, R177). -/
def Obligations.StackWords : Prop :=
  ∀ (s : State) (v1 v2 v3 : Addr), s.Inv →
    let s3 := push16 (push16 (push16 s v1) v2) v3
    pulled16 s3 = v3 ∧ pulled16 (pull16 s3) = v2 ∧ pulled16 (pull16 (pull16 s3)) = v1 ∧
      (pull16 (pull16 (pull16 s3))).sp = s.sp

/-! ### Unofficial read-modify-write (46) -/

/-- DCP and ISB (R303, R304): the stepped value is stored, and then compared with A or subtracted from it. -/
def Obligations.StepAndCombine : Prop :=
  ∀ (s : State) (o : Operand) (e : Effective), s.Inv → effective o s = some e → e.addr < 0x8000#16 →
    ((Instr.dcp o).wellFormed = true → ∃ t, exec (.dcp o) s = .next t ∧
      Stored (afterRead s e.addr) t e.addr (peek s e.addr - 1) ∧ t.registers = s.registers ∧
      SetsCZN s.p t.p (decide ((peek s e.addr - 1).toNat ≤ s.a.toNat)) (s.a - (peek s e.addr - 1)) ∧
      SameHost s t ∧ t.run = s.run ∧ t.pc = s.pc + BitVec.ofNat 16 o.bytes.length) ∧
    ((Instr.isb o).wellFormed = true → ∃ t, exec (.isb o) s = .next t ∧
      Stored (afterRead s e.addr) t e.addr (peek s e.addr + 1) ∧ t.registers = (t.a, s.x, s.y, s.sp) ∧
      Subtracted s.p t.p s.a (peek s e.addr + 1) t.a (flagOf s.p .c) ∧
      SameHost s t ∧ t.run = s.run ∧ t.pc = s.pc + BitVec.ofNat 16 o.bytes.length)

/-- SLO, RLA, SRE and RRA (R305 to R308): the shifted value is stored and then combined with A; RRA adds it with the carry the
rotate leaves. -/
def Obligations.ShiftAndCombine : Prop :=
  ∀ (s : State) (o : Operand) (e : Effective), s.Inv → effective o s = some e → e.addr < 0x8000#16 →
    (∀ (i : Instr) (r : Nat) (c : Bool) (f : Bool → Bool → Bool),
      (let m := peek s e.addr
       let k := (flagOf s.p .c).toNat
       i = .slo o ∧ r = 2 * m.toNat % 256 ∧ c = m.getLsbD 7 ∧ f = or ∨
       i = .rla o ∧ r = 2 * m.toNat % 256 + k ∧ c = m.getLsbD 7 ∧ f = and ∨
       i = .sre o ∧ r = m.toNat / 2 ∧ c = m.getLsbD 0 ∧ f = xor) → i.wellFormed = true →
      ∃ t, exec i s = .next t ∧ Stored (afterRead s e.addr) t e.addr (BitVec.ofNat 8 r) ∧
        (∀ k < 8, t.a.getLsbD k = f (s.a.getLsbD k) ((BitVec.ofNat 8 r).getLsbD k)) ∧ t.registers = (t.a, s.x, s.y, s.sp) ∧
        SetsCZN s.p t.p c t.a ∧ SameHost s t ∧ t.run = s.run ∧ t.pc = s.pc + BitVec.ofNat 16 o.bytes.length) ∧
    ((Instr.rra o).wellFormed = true → ∃ t r, exec (.rra o) s = .next t ∧
      r.toNat = (peek s e.addr).toNat / 2 + 128 * (flagOf s.p .c).toNat ∧ Stored (afterRead s e.addr) t e.addr r ∧
      Added s.p t.p s.a r t.a ((peek s e.addr).getLsbD 0) ∧ t.registers = (t.a, s.x, s.y, s.sp) ∧
      SameHost s t ∧ t.run = s.run ∧ t.pc = s.pc + BitVec.ofNat 16 o.bytes.length)

/-- The fusion rule (R300), at a zero-page operand: each fused instruction leaves the registers, the status and the memory that its two
official operations leave when they are executed one after the other on the same operand. -/
def Obligations.FusionRule : Prop :=
  ∀ (s : State) (b : Byte) (fused first second : Instr), s.Inv →
    (fused, first, second) ∈ ([(.dcp (.zp b), .dec (.zp b), .cmp (.zp b)), (.isb (.zp b), .inc (.zp b), .sbc (.zp b)),
        (.slo (.zp b), .asl (.zp b), .ora (.zp b)), (.rla (.zp b), .rol (.zp b), .and (.zp b)),
        (.sre (.zp b), .lsr (.zp b), .eor (.zp b)), (.rra (.zp b), .ror (.zp b), .adc (.zp b)),
        (.lax (.zp b), .lda (.zp b), .tax)] : List (Instr × Instr × Instr)) →
    ∃ t u v, exec fused s = .next t ∧ exec first s = .next u ∧ exec second u = .next v ∧
      t.registers = v.registers ∧ t.p = v.p ∧ t.ram = v.ram

/-! ### The bus (20, 49) -/

/-- What a read gives, region by region (R74 to R79, R420): RAM and PRG ROM through their mirrors, the stub, joypad 2, the unmapped
range; the mirrors of the PPU window are one register for reads and for writes. -/
def Obligations.ReadsByRegion : Prop :=
  ∀ (s : State) (a : Addr),
    (a ≤ 0x1FFF#16 → peek s a = s.ram.read (a.toNat % 0x800)) ∧
    (inPpuWindow a → ∃ r : Addr, r.toNat = 0x2000 + a.toNat % 8 ∧ peek s a = peek s r ∧ afterRead s a = afterRead s r ∧
      ∀ v, busWrite s a v = busWrite s r v) ∧
    (0x4000#16 ≤ a → a ≤ 0x4015#16 → peek s a = 0xFF) ∧
    (a = 0x4017#16 → peek s a = 0x00) ∧
    (0x4018#16 ≤ a → a ≤ 0x7FFF#16 → peek s a = s.params.unmappedRead) ∧
    (0x8000#16 ≤ a → s.prgSize = .kib32 → peek s a = s.prgRom.read (a.toNat - 0x8000)) ∧
    (0x8000#16 ≤ a → s.prgSize = .kib16 → peek s a = s.prgRom.read ((a.toNat - 0x8000) % 0x4000))

/-- The round-trip property of 16-bit accesses on RAM, the page boundaries included, little-endian (R85, R422). -/
def Obligations.WordRoundTrip : Prop :=
  ∀ (s : State) (a v : Addr), s.Inv → a ≤ 0x1FFE#16 →
    ∃ t, busWrite16 s a v = .next t ∧ read16 t a = v ∧ peek t a = loByte v ∧ peek t (a + 1) = hiByte v ∧
      ∀ b, ¬ sameRamCell b a → ¬ sameRamCell b (a + 1) → peek t b = peek s b

/-- OAM DMA (R97, R348, R436): 256 reads of the page in ascending order, each in the state the one before it left (`f k`), and then
byte `k` at `oam_addr + k` modulo 256; `oam_addr` is back where it was. A write to `$4014` does this and no more. A page whose
reads have no side effect changes nothing but OAM. -/
def Obligations.OamDmaCopiesAPage : Prop :=
  ∀ (s : State) (v : Byte), s.Inv → busWrite s 0x4014 v = .next (oamDma s v) ∧
    (∃ f : Nat → State, f 0 = s ∧ (∀ k < 256, f (k + 1) = afterRead (f k) (BitVec.ofNat 16 (256 * v.toNat + k))) ∧
      (∀ k < 256, (oamDma s v).ppu.oam.read (((f 256).ppu.oamAddr.toNat + k) % 256)
        = peek (f k) (BitVec.ofNat 16 (256 * v.toNat + k))) ∧
      (oamDma s v).ppu = { (f 256).ppu with oam := (oamDma s v).ppu.oam } ∧
      oamDma s v = { f 256 with ppu := (oamDma s v).ppu }) ∧
    ((v < 0x20 ∨ 0x40 < v) → oamDma s v = { s with ppu := { s.ppu with oam := (oamDma s v).ppu.oam } } ∧
      ∀ k < 256, (oamDma s v).ppu.oam.read ((s.ppu.oamAddr.toNat + k) % 256) = peek s (BitVec.ofNat 16 (256 * v.toNat + k)))

/-- The joypad protocol (R440 to R442, R518): after a write with bit 0 set and a write with bit 0 clear, eight reads of `$4016` give the
eight buttons in order and every later one gives 1; while the strobe is armed every read gives button A. -/
def Obligations.JoypadProtocol : Prop :=
  ∀ (s : State) (v w : Byte), v.getLsbD 0 = true → w.getLsbD 0 = false →
    ∃ t u, busWrite s 0x4016 v = .next t ∧ busWrite t 0x4016 w = .next u ∧
      ∀ k : Nat,
        peek ((fun q => afterRead q 0x4016)^[k] t) 0x4016 = (if s.joypad.buttons.getLsbD 0 then 1 else 0) ∧
        peek ((fun q => afterRead q 0x4016)^[k] u) 0x4016 = (if s.joypad.buttons.getLsbD k = true ∨ 8 ≤ k then 1 else 0)

/-! ### The PPU's port (47) -/

/-- What reads of the PPU registers give (R335, R336, R339, R346). -/
def Obligations.PpuRegisterReads : Prop :=
  ∀ (s : State) (a : Addr), inPpuWindow a →
    (a.toNat % 8 = 2 → (peek s a).getLsbD 7 = s.ppu.verticalBlank ∧ (peek s a).getLsbD 6 = s.ppu.spriteZeroHit ∧
      (peek s a).getLsbD 5 = s.ppu.spriteOverflow ∧ (peek s a).toNat % 32 = s.ppu.dataBuffer.toNat % 32) ∧
    (a.toNat % 8 = 4 → peek s a = s.ppu.oam.read s.ppu.oamAddr.toNat) ∧
    (a.toNat % 8 = 7 → peek s a = if s.ppu.vramAddr.toNat % 0x4000 < 0x3F00 then s.ppu.dataBuffer
      else ppuRead s.ppu (BitVec.ofNat 14 s.ppu.vramAddr.toNat)) ∧
    (a.toNat % 8 = 0 ∨ a.toNat % 8 = 1 ∨ a.toNat % 8 = 3 ∨ a.toNat % 8 = 5 ∨ a.toNat % 8 = 6 → peek s a = s.params.ppuWoRead)

/-- What writes of Control, Mask, Status, OAM address, OAM data and Data do (R332 to R334, R337, R338, R345, R347). -/
def Obligations.PpuRegisterWrites : Prop :=
  ∀ (u : Ppu) (v : Byte), u.Inv →
    (∃ t : Loopy, ppuRegWrite u 0 v = { u with control := v, tramAddr := t } ∧ t.nametableX.toNat = v.toNat % 2 ∧
      t.nametableY.toNat = v.toNat / 2 % 2 ∧ t.coarseX = u.tramAddr.coarseX ∧ t.coarseY = u.tramAddr.coarseY ∧
      t.fineY = u.tramAddr.fineY) ∧
    ppuRegWrite u 1 v = { u with mask := v } ∧
    ppuRegWrite u 2 v = u ∧
    ppuRegWrite u 3 v = { u with oamAddr := v } ∧
    (∃ oam, ppuRegWrite u 4 v = { u with oam := oam, oamAddr := u.oamAddr + 1 } ∧
      ∀ k, oam.read k = if k = u.oamAddr.toNat then v else u.oam.read k) ∧
    (∃ vram palette, ppuRegWrite u 7 v = { u with
        vram := vram
        palette := palette
        vramAddr := BitVec.ofNat 15 (u.vramAddr.toNat + if u.control.getLsbD 2 then 32 else 1) } ∧
      vram = (ppuWrite u (BitVec.ofNat 14 u.vramAddr.toNat) v).vram ∧
      palette = (ppuWrite u (BitVec.ofNat 14 u.vramAddr.toNat) v).palette)

/-- The write-twice protocol (R340 to R344): what a pair of writes to Scroll and a pair to Address leave, that a first write to
either makes a write to the other the second, and that a read of Status makes the next write a first one (R336). -/
def Obligations.WriteTwiceProtocol : Prop :=
  ∀ (u : Ppu) (v1 v2 : Byte), u.writeToggle = false →
    (let p := ppuRegWrite (ppuRegWrite u 5 v1) 5 v2
     p = { u with fineX := p.fineX, tramAddr := p.tramAddr } ∧
     p.fineX.toNat = v1.toNat % 8 ∧ p.tramAddr.coarseX.toNat = v1.toNat / 8 ∧
     p.tramAddr.fineY.toNat = v2.toNat % 8 ∧ p.tramAddr.coarseY.toNat = v2.toNat / 8 ∧
     p.tramAddr.nametableX = u.tramAddr.nametableX ∧ p.tramAddr.nametableY = u.tramAddr.nametableY) ∧
    (let p := ppuRegWrite (ppuRegWrite u 6 v1) 6 v2
     p = { u with vramAddr := p.vramAddr, tramAddr := p.vramAddr } ∧ p.vramAddr.toNat = 256 * (v1.toNat % 64) + v2.toNat) ∧
    (let p := ppuRegWrite (ppuRegWrite u 5 v1) 6 v2
     p.writeToggle = false ∧ p.vramAddr = p.tramAddr ∧ p.tramAddr.toNat % 256 = v2.toNat ∧ p.fineX.toNat = v1.toNat % 8 ∧
     p.tramAddr.toNat / 256 = u.tramAddr.toNat / 256) ∧
    (let p := ppuRegWrite (ppuRegWrite u 6 v1) 5 v2
     p = { u with tramAddr := p.tramAddr } ∧ p.tramAddr.coarseX = u.tramAddr.coarseX ∧
     p.tramAddr.nametableX.toNat = v1.toNat / 4 % 2 ∧ p.tramAddr.nametableY.toNat = v1.toNat / 8 % 2 ∧
     p.tramAddr.fineY.toNat = v2.toNat % 8 ∧ p.tramAddr.coarseY.toNat = v2.toNat / 8) ∧
    (∀ r : BitVec 3, r = 5 ∨ r = 6 → (ppuRegWrite u r v1).writeToggle = true ∧
      (ppuRegAfterRead (ppuRegWrite u r v1) 2).writeToggle = false)

/-- Two name-table addresses designate one cell of the 2 KiB (R91). -/
def sameNameTableCell (m : Mirroring) (a b : PpuAddr) : Prop :=
  a.toNat % 0x400 = b.toNat % 0x400 ∧
    match m with
    | .horizontal => a.toNat / 0x800 % 2 = b.toNat / 0x800 % 2
    | .vertical => a.toNat / 0x400 % 2 = b.toNat / 0x400 % 2

/-- Two palette addresses designate one of the 32 bytes: they repeat every 32, and the first colour of each sprite palette is that of
the background palette (R92). -/
def samePaletteCell (a b : PpuAddr) : Prop :=
  a.toNat % 32 = b.toNat % 32 ∨ (a.toNat % 4 = 0 ∧ a.toNat % 16 = b.toNat % 16)

/-- PPU memory (R90 to R93, R352, R353): what a read gives after a write, region by region, through the mirrors. -/
def Obligations.PpuMemoryReadAfterWrite : Prop :=
  ∀ (u : Ppu) (a b : PpuAddr) (v : Byte), u.Inv →
    (a < 0x2000#14 → ppuWrite u a v = u ∧ ppuRead u a = u.chrRom.read a.toNat) ∧
    (0x2000#14 ≤ a → a < 0x3F00#14 →
      (0x2000#14 ≤ b → b < 0x3F00#14 → sameNameTableCell u.mirroring a b → ppuRead (ppuWrite u a v) b = v) ∧
      (b < 0x2000#14 ∨ 0x3F00#14 ≤ b ∨ ¬ sameNameTableCell u.mirroring a b → ppuRead (ppuWrite u a v) b = ppuRead u b)) ∧
    (0x3F00#14 ≤ a →
      (0x3F00#14 ≤ b → samePaletteCell a b → ppuRead (ppuWrite u a v) b = v &&& (if u.mask.getLsbD 0 then 0x30 else 0x3F)) ∧
      (b < 0x3F00#14 ∨ ¬ samePaletteCell a b → ppuRead (ppuWrite u a v) b = ppuRead u b))

/-! ### The dot machine (48) -/

/-- A frame (R371, R373, R399, R400, R533): the number of dots from `(-1, 0)` back to `(-1, 0)`, with and without the dot-0 skip, the
dot whose end reports the frame, and the dot at which the vertical blank is reported when the NMI is enabled. -/
def Obligations.FrameLength : Prop :=
  ∀ u : Ppu, u.scanline = -1 → u.dot = 0 →
    ((ppuTick true 89341 u).scanline = -1 ∧ (ppuTick true 89341 u).dot = 0) ∧
    ((ppuTick false 89342 u).scanline = -1 ∧ (ppuTick false 89342 u).dot = 0) ∧
    (u.control.getLsbD 7 = false →
      ppuTickReports true 89340 u = false ∧ dotReports true (ppuTick true 89340 u) = true ∧
      ppuTickReports false 89341 u = false ∧ dotReports false (ppuTick false 89341 u) = true) ∧
    (u.control.getLsbD 7 = true →
      ppuTickReports true 82522 u = false ∧ dotReports true (ppuTick true 82522 u) = true ∧
      ppuTickReports false 82523 u = false ∧ dotReports false (ppuTick false 82523 u) = true)

/-- Vertical blank and the NMI request (R374, R397, R398, R469): set at `(241, 1)`, the request and the report only if enabled there; the three status
flags are cleared at `(-1, 1)`; no other dot changes the vertical-blank flag or the request. -/
def Obligations.VerticalBlank : Prop :=
  ∀ (u : Ppu) (skip : Bool),
    (u.scanline = 241 → u.dot = 1 →
      (dot skip u).verticalBlank = true ∧ (dot skip u).nmiPending = (u.nmiPending || u.control.getLsbD 7) ∧
      dotReports skip u = u.control.getLsbD 7) ∧
    (¬ (u.scanline = 241 ∧ u.dot = 1) → (dot skip u).nmiPending = u.nmiPending) ∧
    (u.scanline = -1 → u.dot = 1 →
      (dot skip u).verticalBlank = false ∧ (dot skip u).spriteZeroHit = false ∧ (dot skip u).spriteOverflow = false) ∧
    (¬ (u.scanline = 241 ∧ u.dot = 1) → ¬ (u.scanline = -1 ∧ u.dot = 1) → (dot skip u).verticalBlank = u.verticalBlank)

/-- What the dot machine never does (R402): it writes no PPU memory, and not `oam_addr`, `control`, `mask`, `tram_addr`, `fine_x`, `w`
or `data_buffer`; and it moves the VRAM pointer only while rendering is enabled and only on scanlines -1 to 239. -/
def Obligations.DotKeepsPortAndMemory : Prop :=
  ∀ (u : Ppu) (skip : Bool),
    (dot skip u).chrRom = u.chrRom ∧ (dot skip u).vram = u.vram ∧ (dot skip u).palette = u.palette ∧ (dot skip u).oam = u.oam ∧
    (dot skip u).mirroring = u.mirroring ∧ (dot skip u).oamAddr = u.oamAddr ∧ (dot skip u).control = u.control ∧
    (dot skip u).mask = u.mask ∧ (dot skip u).tramAddr = u.tramAddr ∧ (dot skip u).fineX = u.fineX ∧
    (dot skip u).writeToggle = u.writeToggle ∧ (dot skip u).dataBuffer = u.dataBuffer ∧
    ((u.mask.getLsbD 3 = false ∧ u.mask.getLsbD 4 = false) ∨ u.scanline < -1 ∨ 239 < u.scanline →
      (dot skip u).vramAddr = u.vramAddr)

/-- The two scroll increments and the two transfers (R383 to R385, R387): field by field, changing nothing but the pointer and nothing at
all while rendering is off; and the dots at which the dot machine applies them (R372, R375), no other dot moving the pointer. -/
def Obligations.ScrollCounters : Prop :=
  ∀ u : Ppu,
    (u.rendering = false →
      incrementScrollX u = u ∧ incrementScrollY u = u ∧ transferAddressX u = u ∧ transferAddressY u = u) ∧
    (u.rendering = true →
      (let v := u.vramAddr
       let x := (incrementScrollX u).vramAddr
       let y := (incrementScrollY u).vramAddr
       let tx := (transferAddressX u).vramAddr
       let ty := (transferAddressY u).vramAddr
       (x.coarseX.toNat = (v.coarseX.toNat + 1) % 32 ∧
         x.nametableX = (if v.coarseX.toNat = 31 then 1 - v.nametableX else v.nametableX) ∧
         x.coarseY = v.coarseY ∧ x.nametableY = v.nametableY ∧ x.fineY = v.fineY) ∧
       (y.fineY.toNat = (v.fineY.toNat + 1) % 8 ∧
         y.coarseY.toNat = (if v.fineY.toNat < 7 then v.coarseY.toNat else if v.coarseY.toNat = 29 then 0
           else (v.coarseY.toNat + 1) % 32) ∧
         y.nametableY = (if v.fineY.toNat = 7 ∧ v.coarseY.toNat = 29 then 1 - v.nametableY else v.nametableY) ∧
         y.coarseX = v.coarseX ∧ y.nametableX = v.nametableX) ∧
       (tx.coarseX = u.tramAddr.coarseX ∧ tx.nametableX = u.tramAddr.nametableX ∧ tx.coarseY = v.coarseY ∧
         tx.nametableY = v.nametableY ∧ tx.fineY = v.fineY) ∧
       (ty.coarseY = u.tramAddr.coarseY ∧ ty.nametableY = u.tramAddr.nametableY ∧ ty.fineY = u.tramAddr.fineY ∧
         ty.coarseX = v.coarseX ∧ ty.nametableX = v.nametableX))) ∧
    (incrementScrollX u = { u with vramAddr := (incrementScrollX u).vramAddr } ∧
     incrementScrollY u = { u with vramAddr := (incrementScrollY u).vramAddr } ∧
     transferAddressX u = { u with vramAddr := (transferAddressX u).vramAddr } ∧
     transferAddressY u = { u with vramAddr := (transferAddressY u).vramAddr }) ∧
    (∀ skip : Bool,
      let d := dotNumber skip u
      (dot skip u).vramAddr =
        if ¬ fetchLine u then u.vramAddr
        else if d = 256 then (incrementScrollY (incrementScrollX u)).vramAddr
        else if d = 257 then (transferAddressX u).vramAddr
        else if fetchDot d ∧ d % 8 = 0 then (incrementScrollX u).vramAddr
        else if u.scanline = -1 ∧ 280 ≤ d ∧ d ≤ 304 then (transferAddressY u).vramAddr
        else u.vramAddr)

/-- The background pipeline of one dot (R375 to R382, R386): what each dot puts in the four latches, from which PPU address, and what it
makes of the four shifters: shifted first, while the background is shown, and then reloaded in their low bytes from the latches as they
were; every other dot keeps them. -/
def Obligations.BackgroundPipeline : Prop :=
  ∀ (u : Ppu) (skip : Bool),
    let d := dotNumber skip u
    let w := dot skip u
    let v := u.vramAddr
    let cx := v.coarseX.toNat
    let cy := v.coarseY.toNat
    let pattern := (if u.control.getLsbD 4 then 0x1000 else 0) + 16 * u.bgNextTileId.toNat + v.fineY.toNat
    let shifted : BitVec 16 → Nat := fun r =>
      if fetchLine u ∧ fetchDot d ∧ u.mask.getLsbD 3 = true then 2 * r.toNat % 0x10000 else r.toNat
    let next : BitVec 16 → Nat → Nat := fun r low =>
      if fetchLine u ∧ fetchDot d ∧ d % 8 = 1 then shifted r / 256 * 256 + low else shifted r
    w.bgNextTileId = (if fetchLine u ∧ (fetchDot d ∧ d % 8 = 1 ∨ d = 338 ∨ d = 340)
      then ppuRead u (BitVec.ofNat 14 (0x2000 + v.toNat % 0x1000)) else u.bgNextTileId) ∧
    w.bgNextTileAttrib.toNat = (if fetchLine u ∧ fetchDot d ∧ d % 8 = 3
      then (ppuRead u (BitVec.ofNat 14 (0x23C0 + 0x800 * v.nametableY.toNat + 0x400 * v.nametableX.toNat + 8 * (cy / 4) + cx / 4))).toNat
        / 2 ^ (4 * (cy / 2 % 2) + 2 * (cx / 2 % 2)) % 4
      else u.bgNextTileAttrib.toNat) ∧
    w.bgNextTileLsb = (if fetchLine u ∧ fetchDot d ∧ d % 8 = 5 then ppuRead u (BitVec.ofNat 14 pattern) else u.bgNextTileLsb) ∧
    w.bgNextTileMsb = (if fetchLine u ∧ fetchDot d ∧ d % 8 = 7 then ppuRead u (BitVec.ofNat 14 (pattern + 8)) else u.bgNextTileMsb) ∧
    w.bgShifterPatternLo.toNat = next u.bgShifterPatternLo u.bgNextTileLsb.toNat ∧
    w.bgShifterPatternHi.toNat = next u.bgShifterPatternHi u.bgNextTileMsb.toNat ∧
    w.bgShifterAttribLo.toNat = next u.bgShifterAttribLo (if u.bgNextTileAttrib.getLsbD 0 then 0xFF else 0) ∧
    w.bgShifterAttribHi.toNat = next u.bgShifterAttribHi (if u.bgNextTileAttrib.getLsbD 1 then 0xFF else 0)

/-- Sprite evaluation (R388): on dot 257 of scanlines -1 to 239 the number of OAM entries whose rows cover the scanline decides the count
and the overflow flag, the first eight are staged in OAM order and the other units are emptied; no other dot changes the count or the sprite-zero bit, and
none but `(-1, 1)` the overflow flag. -/
def Obligations.SpriteEvaluation : Prop :=
  ∀ (u : Ppu) (skip : Bool),
    (-1 ≤ u.scanline → u.scanline ≤ 239 → u.dot = 257 →
      ∃ found : List Nat,
        (∀ n, n ∈ found ↔ n < 64 ∧ (0 : Int) ≤ u.scanline - (u.oam.read (4 * n)).toNat ∧
          u.scanline - (u.oam.read (4 * n)).toNat < if u.control.getLsbD 5 then 16 else 8) ∧
        found.Pairwise (· < ·) ∧
        (dot skip u).spriteCount = min 8 found.length ∧ (dot skip u).spriteOverflow = decide (8 < found.length) ∧
        ((dot skip u).spriteZeroPossible = true ↔ 0 ∈ found) ∧
        (∀ k < 8, (dot skip u).sprites[k]? = some (match found[k]? with
          | some n => { y := u.oam.read (4 * n), tile := u.oam.read (4 * n + 1), attr := u.oam.read (4 * n + 2)
                        x := u.oam.read (4 * n + 3), shifterLo := 0, shifterHi := 0 }
          | none => { y := 0xFF, tile := 0xFF, attr := 0xFF, x := 0xFF, shifterLo := 0, shifterHi := 0 }))) ∧
    (¬ (fetchLine u ∧ u.dot = 257) →
      (dot skip u).spriteCount = u.spriteCount ∧ (dot skip u).spriteZeroPossible = u.spriteZeroPossible ∧
      (¬ (u.scanline = -1 ∧ u.dot = 1) → (dot skip u).spriteOverflow = u.spriteOverflow))

/-- The sprite units on the dots other than that of the evaluation: cleared shifters at `(-1, 1)` (R374), counters and shifters on dots 2 to
256 while sprites are shown (R378), and the pattern fetch at dot 340 with its two flips and both sprite sizes (R389, R390), for a row
inside the sprite (another row is log 22). -/
def Obligations.SpriteUnits : Prop :=
  ∀ (u : Ppu) (skip : Bool), u.Inv →
    let d := dotNumber skip u
    let w := dot skip u
    (¬ fetchLine u → w.sprites = u.sprites) ∧
    (fetchLine u → d ≠ 257 → ∀ (k : Nat) (q : SpriteUnit), u.sprites[k]? = some q →
      (u.scanline = -1 → d = 1 → w.sprites[k]? = some { q with shifterLo := 0, shifterHi := 0 }) ∧
      (¬ (u.scanline = -1 ∧ d = 1) → d ≠ 340 → w.sprites[k]? = some (
        if u.mask.getLsbD 4 = true ∧ k < u.spriteCount ∧ 2 ≤ d ∧ d ≤ 256 then
          if q.x = 0 then { q with shifterLo := q.shifterLo <<< 1, shifterHi := q.shifterHi <<< 1 } else { q with x := q.x - 1 }
        else q)) ∧
      (d = 340 → u.spriteCount ≤ k → w.sprites[k]? = some q) ∧
      (d = 340 → k < u.spriteCount → ∀ row : Nat, (row : Int) = u.scanline - q.y.toNat →
        (row < if u.control.getLsbD 5 then 16 else 8) →
        let flip := q.attr.getLsbD 7
        let tile := q.tile.toNat
        let pattern := if u.control.getLsbD 5
          then 0x1000 * (tile % 2) + 16 * (tile / 2 * 2 + if decide (row < 8) = flip then 1 else 0)
            + (if flip then 7 - row % 8 else row % 8)
          else (if u.control.getLsbD 3 then 0x1000 else 0) + 16 * tile + (if flip then 7 - row else row)
        ∃ lo hi : Byte, w.sprites[k]? = some { q with shifterLo := lo, shifterHi := hi } ∧
          ∀ j < 8, lo.getLsbD j = (ppuRead u (BitVec.ofNat 14 pattern)).getLsbD (if q.attr.getLsbD 6 then 7 - j else j) ∧
            hi.getLsbD j = (ppuRead u (BitVec.ofNat 14 (pattern + 8))).getLsbD (if q.attr.getLsbD 6 then 7 - j else j)))

/-- What the background pixel and the sprite unit of a dot are (R392, R393): the shifters' bits that fine X selects, and the first staged
unit that is opaque; none where the layer is hidden, by its show flag or in the left column. -/
def Obligations.PixelSelection : Prop :=
  ∀ (u : Ppu) (d : Nat),
    let bg := backgroundPixel d u
    let unit := foregroundUnit d u
    let bgShown := u.mask.getLsbD 3 = true ∧ (u.mask.getLsbD 1 = true ∨ 9 ≤ d)
    let fgShown := u.mask.getLsbD 4 = true ∧ (u.mask.getLsbD 2 = true ∨ 9 ≤ d)
    let bit : BitVec 16 → Nat := fun r => r.toNat / 2 ^ (15 - u.fineX.toNat) % 2
    (¬ bgShown → bg.color = 0 ∧ bg.palette = 0) ∧
    (bgShown → bg.color.toNat = 2 * bit u.bgShifterPatternHi + bit u.bgShifterPatternLo ∧
      bg.palette.toNat = 2 * bit u.bgShifterAttribHi + bit u.bgShifterAttribLo) ∧
    (unit = none ↔ ¬ fgShown ∨ ∀ (k : Nat) (q : SpriteUnit), k < u.spriteCount → u.sprites[k]? = some q → ¬ unitOpaque q) ∧
    (∀ (k : Nat) (q : SpriteUnit), unit = some (k, q) ↔
      fgShown ∧ k < u.spriteCount ∧ u.sprites[k]? = some q ∧ unitOpaque q ∧
        ∀ (j : Nat) (q' : SpriteUnit), j < k → u.sprites[j]? = some q' → ¬ unitOpaque q') ∧
    ((foregroundPixel none).color = 0 ∧ (foregroundPixel none).palette = 0) ∧
    (∀ (k : Nat) (q : SpriteUnit), (foregroundPixel (some (k, q))).color.toNat = unitColor q ∧
      (foregroundPixel (some (k, q))).palette.toNat = q.attr.toNat % 4 + 4 ∧
      foregroundFront (some (k, q)) = !q.attr.getLsbD 5)

/-- The pixel of a dot (R391, R394 to R396), from the shifters and units as the dot leaves them (`w`; PixelSelection says what `bg` and
`unit` are): the cell of the dot takes the colour that the priority rule picks from the background and the sprite pixel, every other
cell is kept, and the sprite-zero hit is set exactly when both pixels are opaque, the sprite is OAM's first one and both layers are
shown; the two bits for `sprite_zero_rendered` are R393's and R46's (that the model holds both is log 25). No other dot draws: the end of the frame moves the picture to the completed one and clears it (R399), and `(-1, 1)` clears the
hit (R374). -/
def Obligations.PixelComposition : Prop :=
  ∀ (u : Ppu) (skip : Bool), u.Inv →
    let d := dotNumber skip u
    let w := dot skip u
    let bg := backgroundPixel d w
    let unit := foregroundUnit d w
    let fg := foregroundPixel unit
    let shown : Nat → Option (BitVec 6) := fun k =>
      some ((u.palette.read k &&& (if u.mask.getLsbD 0 then 0x30 else 0x3F)).setWidth 6)
    let cell := 256 * u.scanline.toNat + (d - 1)
    (0 ≤ u.scanline → u.scanline ≤ 239 → 1 ≤ d → d ≤ 256 →
      (∀ k, k ≠ cell → w.frameBuffer.read k = u.frameBuffer.read k) ∧
      w.frameBuffer.read cell = shown (
        if bg.color = 0 ∧ fg.color = 0 then 0
        else if bg.color = 0 ∨ (fg.color ≠ 0 ∧ foregroundFront unit = true) then 4 * fg.palette.toNat + fg.color.toNat
        else 4 * bg.palette.toNat + bg.color.toNat) ∧
      w.completedFrame = u.completedFrame ∧
      (w.spriteZeroRendered = true ↔ ∃ q, unit = some (0, q)) ∧
      (w.spriteZeroChosen = true ↔ u.spriteZeroPossible = true ∧ ∃ q, unit = some (0, q)) ∧
      (w.spriteZeroHit = true ↔ u.spriteZeroHit = true ∨
        (bg.color ≠ 0 ∧ fg.color ≠ 0 ∧ u.spriteZeroPossible = true ∧ (∃ q, unit = some (0, q)) ∧ u.mask.getLsbD 3 = true ∧
          u.mask.getLsbD 4 = true))) ∧
    (¬ (0 ≤ u.scanline ∧ u.scanline ≤ 239 ∧ 1 ≤ d ∧ d ≤ 256) →
      w.spriteZeroRendered = u.spriteZeroRendered ∧ w.spriteZeroChosen = u.spriteZeroChosen ∧
      (¬ (u.scanline = -1 ∧ d = 1) → w.spriteZeroHit = u.spriteZeroHit) ∧
      (¬ (u.scanline = 260 ∧ d = 340) → w.frameBuffer = u.frameBuffer ∧ w.completedFrame = u.completedFrame) ∧
      (u.scanline = 260 → d = 340 → w.completedFrame = u.frameBuffer ∧ ∀ k, w.frameBuffer.read k = none))

/-! ### Reset and construction (70) -/

/-- The values the spec gives for power-on and reset (R55, R501). The cartridge of `State.reset` and with it the value of `pc` are the
model's choice (log 1). -/
def Obligations.ResetValues : Prop :=
  let s := State.reset
  s.registers = (0x00, 0x00, 0x00, 0xFD) ∧ s.p = 0x24 ∧ s.cycles = 0 ∧ s.run = .running ∧ s.busCycles = 0 ∧
  s.pc = wordOf (peek s 0xFFFD) (peek s 0xFFFC) ∧
  (∀ a : Addr, a ≤ 0x1FFF#16 → peek s a = 0x00) ∧
  (s.ppu.scanline = -1 ∧ s.ppu.dot = 0 ∧ s.ppu.nmiPending = false) ∧
  (s.ppu.control = 0 ∧ s.ppu.mask = 0 ∧ s.ppu.status = 0 ∧ s.ppu.oamAddr = 0) ∧
  (s.ppu.vramAddr = 0 ∧ s.ppu.tramAddr = 0 ∧ s.ppu.fineX = 0 ∧ s.ppu.writeToggle = false ∧ s.ppu.dataBuffer = 0) ∧
  (s.ppu.bgNextTileId = 0 ∧ s.ppu.bgNextTileAttrib = 0 ∧ s.ppu.bgNextTileLsb = 0 ∧ s.ppu.bgNextTileMsb = 0) ∧
  (s.ppu.bgShifterPatternLo = 0 ∧ s.ppu.bgShifterPatternHi = 0 ∧ s.ppu.bgShifterAttribLo = 0 ∧ s.ppu.bgShifterAttribHi = 0) ∧
  (∀ q ∈ s.ppu.sprites, q = { y := 0xFF, tile := 0xFF, attr := 0xFF, x := 0xFF, shifterLo := 0, shifterHi := 0 }) ∧
  (s.ppu.spriteCount = 0 ∧ s.ppu.spriteZeroPossible = false ∧ s.ppu.spriteZeroRendered = false ∧
    s.ppu.spriteZeroChosen = false) ∧
  (∀ k, s.ppu.vram.read k = 0 ∧ s.ppu.palette.read k = 0 ∧ s.ppu.oam.read k = 0 ∧ s.ppu.frameBuffer.read k = none ∧
    s.ppu.completedFrame.read k = none) ∧
  (s.joypad.strobe = false ∧ s.joypad.index = 0 ∧ s.joypad.buttons = 0x00)

/-- `reset()` and construction (R80, R500, R501; the values that the spec decides itself are log 3, log 4 and log 5, and that both are
operations of the host log 17): a CPU reset writes the register file, the pending counter and `run` from any state and touches
nothing else (log 3); a core is constructed from images of the admitted lengths (log 19) at a position of the PPU (log 24) only; it
starts as `t0` at its own reset vector, from which the bus is given `RESET_CYCLE_COST` cycles. Initial contents of another length than
their memory are cut or filled with zeros (log 23). -/
def Obligations.PowerOnAndReset : Prop :=
  (∀ s : State, cpuReset s = { s with
      a := 0x00, x := 0x00, y := 0x00, sp := 0xFD, p := 0x24, cycles := 0, run := .running
      pc := wordOf (peek s 0xFFFD) (peek s 0xFFFC) }) ∧
  (∀ c : Setup,
    (c.prgRom.length ≠ 0x4000 → c.prgRom.length ≠ 0x8000 → powerOn c = .refused (.prgLength c.prgRom.length)) ∧
    (c.prgRom.length = 0x4000 ∨ c.prgRom.length = 0x8000 →
      (c.chrRom.length ≠ 0x2000 → powerOn c = .refused (.chrLength c.chrRom.length)) ∧
      (c.chrRom.length = 0x2000 →
        (¬ (-1 ≤ c.scanline ∧ c.scanline ≤ 260 ∧ c.dot ≤ 340) → powerOn c = .refused (.ppuPosition c.scanline c.dot)) ∧
        (-1 ≤ c.scanline → c.scanline ≤ 260 → c.dot ≤ 340 → ∃ t0 t, powerOn c = .next t ∧ t = busTick c.resetCycleCost t0 ∧
          t.busCycles = c.resetCycleCost ∧
          t0.registers = (0x00, 0x00, 0x00, 0xFD) ∧ t0.p = 0x24 ∧ t0.busCycles = 0 ∧ t0.cycles = 0 ∧ t0.run = .running ∧
          t0.pc = wordOf (c.prgRom.getD (c.prgRom.length - 3) 0) (c.prgRom.getD (c.prgRom.length - 4) 0) ∧
          (∀ k < 0x8000, peek t0 (BitVec.ofNat 16 (0x8000 + k)) = c.prgRom.getD (k % c.prgRom.length) 0) ∧
          (∀ k < 0x2000, ppuRead t0.ppu (BitVec.ofNat 14 k) = c.chrRom.getD k 0) ∧
          (∀ k < 0x800, t0.ram.read k = c.ram.getD k 0 ∧ t0.ppu.vram.read k = c.vram.getD k 0) ∧
          (∀ k < 0x20, t0.ppu.palette.read k = c.palette.getD k 0) ∧ (∀ k < 0x100, t0.ppu.oam.read k = c.oam.getD k 0) ∧
          t0.ppu = { State.reset.ppu with
            scanline := c.scanline, dot := c.dot, mirroring := c.mirroring, chrRom := t0.ppu.chrRom, vram := t0.ppu.vram
            palette := t0.ppu.palette, oam := t0.ppu.oam } ∧
          t0.joypad = State.reset.joypad ∧ t0.params = c.params ∧ t0.hostInputs = c.hostInputs ∧ t0.callbacks = 0))))

/-! ### The whole machine -/

/-- The invariant holds after reset. -/
def Obligations.ResetSatisfiesInvariant : Prop := State.reset.Inv

/-- Every step keeps the invariant: memories canonical and inside their sizes, break clear and break2 set in the live status (R26), the PPU
at a legal position (R32), eight sprite units (R44), pictures inside 256x240 (R47), the joypad index at most 8 (R52). -/
def Obligations.StepKeepsInvariant : Prop := ∀ s t : State, s.Inv → step s = .next t → t.Inv

/-- What no step changes (R9, R51, R91, R93, R500): the cartridge and the parameters; and a running machine stops running only by BRK in
the mode in which BRK halts (R29, R181). -/
def Obligations.StepKeepsCartridge : Prop :=
  ∀ s t : State, step s = .next t →
    t.prgRom = s.prgRom ∧ t.prgSize = s.prgSize ∧ t.ppu.chrRom = s.ppu.chrRom ∧ t.ppu.mirroring = s.ppu.mirroring ∧
    t.params = s.params ∧
    (s.run = .running → t.run ≠ .running → t.run = .halted ∧ s.params.brkMode = .halt ∧ fetched s = .brk)

/-- During an instruction the PPU stands still and the host does not act (R96, R158): no instruction moves the PPU's position, changes the
request of an NMI, draws or changes the buttons; only `BusTick` does. -/
def Obligations.PpuStandsStillInInstructions : Prop :=
  ∀ (i : Instr) (s t : State), exec i s = .next t →
    t.ppu.scanline = s.ppu.scanline ∧ t.ppu.dot = s.ppu.dot ∧ t.ppu.nmiPending = s.ppu.nmiPending ∧
    t.ppu.frameBuffer = s.ppu.frameBuffer ∧ t.ppu.completedFrame = s.ppu.completedFrame ∧ t.ppu.sprites = s.ppu.sprites ∧
    t.busCycles = s.busCycles ∧ t.callbacks = s.callbacks ∧ t.hostInputs = s.hostInputs ∧
    t.joypad.buttons = s.joypad.buttons
end

