-- ==== Sys2Proof/Laws/State.lean ====
section
/-! SUPPORT. One lemma for every field of `State` and every named update, true by `rfl`. -/

namespace Sys2Proof.Machine

variable (s : State)

@[simp] theorem State.writeA_a (v : Byte) : (s.writeA v).a = v := rfl
@[simp] theorem State.writeA_x (v : Byte) : (s.writeA v).x = s.x := rfl
@[simp] theorem State.writeA_y (v : Byte) : (s.writeA v).y = s.y := rfl
@[simp] theorem State.writeA_sp (v : Byte) : (s.writeA v).sp = s.sp := rfl
@[simp] theorem State.writeA_p (v : Byte) : (s.writeA v).p = zn s.p v := rfl
@[simp] theorem State.writeA_pc (v : Byte) : (s.writeA v).pc = s.pc := rfl
@[simp] theorem State.writeA_cycles (v : Byte) : (s.writeA v).cycles = s.cycles := rfl
@[simp] theorem State.writeA_run (v : Byte) : (s.writeA v).run = s.run := rfl
@[simp] theorem State.writeA_ram (v : Byte) : (s.writeA v).ram = s.ram := rfl
@[simp] theorem State.writeA_busCycles (v : Byte) : (s.writeA v).busCycles = s.busCycles := rfl
@[simp] theorem State.writeA_prgRom (v : Byte) : (s.writeA v).prgRom = s.prgRom := rfl
@[simp] theorem State.writeA_prgSize (v : Byte) : (s.writeA v).prgSize = s.prgSize := rfl
@[simp] theorem State.writeA_joypad (v : Byte) : (s.writeA v).joypad = s.joypad := rfl
@[simp] theorem State.writeA_ppu (v : Byte) : (s.writeA v).ppu = s.ppu := rfl
@[simp] theorem State.writeA_params (v : Byte) : (s.writeA v).params = s.params := rfl
@[simp] theorem State.writeA_hostInputs (v : Byte) : (s.writeA v).hostInputs = s.hostInputs := rfl
@[simp] theorem State.writeA_callbacks (v : Byte) : (s.writeA v).callbacks = s.callbacks := rfl

@[simp] theorem State.writeX_a (v : Byte) : (s.writeX v).a = s.a := rfl
@[simp] theorem State.writeX_x (v : Byte) : (s.writeX v).x = v := rfl
@[simp] theorem State.writeX_y (v : Byte) : (s.writeX v).y = s.y := rfl
@[simp] theorem State.writeX_sp (v : Byte) : (s.writeX v).sp = s.sp := rfl
@[simp] theorem State.writeX_p (v : Byte) : (s.writeX v).p = zn s.p v := rfl
@[simp] theorem State.writeX_pc (v : Byte) : (s.writeX v).pc = s.pc := rfl
@[simp] theorem State.writeX_cycles (v : Byte) : (s.writeX v).cycles = s.cycles := rfl
@[simp] theorem State.writeX_run (v : Byte) : (s.writeX v).run = s.run := rfl
@[simp] theorem State.writeX_ram (v : Byte) : (s.writeX v).ram = s.ram := rfl
@[simp] theorem State.writeX_busCycles (v : Byte) : (s.writeX v).busCycles = s.busCycles := rfl
@[simp] theorem State.writeX_prgRom (v : Byte) : (s.writeX v).prgRom = s.prgRom := rfl
@[simp] theorem State.writeX_prgSize (v : Byte) : (s.writeX v).prgSize = s.prgSize := rfl
@[simp] theorem State.writeX_joypad (v : Byte) : (s.writeX v).joypad = s.joypad := rfl
@[simp] theorem State.writeX_ppu (v : Byte) : (s.writeX v).ppu = s.ppu := rfl
@[simp] theorem State.writeX_params (v : Byte) : (s.writeX v).params = s.params := rfl
@[simp] theorem State.writeX_hostInputs (v : Byte) : (s.writeX v).hostInputs = s.hostInputs := rfl
@[simp] theorem State.writeX_callbacks (v : Byte) : (s.writeX v).callbacks = s.callbacks := rfl

@[simp] theorem State.writeY_a (v : Byte) : (s.writeY v).a = s.a := rfl
@[simp] theorem State.writeY_x (v : Byte) : (s.writeY v).x = s.x := rfl
@[simp] theorem State.writeY_y (v : Byte) : (s.writeY v).y = v := rfl
@[simp] theorem State.writeY_sp (v : Byte) : (s.writeY v).sp = s.sp := rfl
@[simp] theorem State.writeY_p (v : Byte) : (s.writeY v).p = zn s.p v := rfl
@[simp] theorem State.writeY_pc (v : Byte) : (s.writeY v).pc = s.pc := rfl
@[simp] theorem State.writeY_cycles (v : Byte) : (s.writeY v).cycles = s.cycles := rfl
@[simp] theorem State.writeY_run (v : Byte) : (s.writeY v).run = s.run := rfl
@[simp] theorem State.writeY_ram (v : Byte) : (s.writeY v).ram = s.ram := rfl
@[simp] theorem State.writeY_busCycles (v : Byte) : (s.writeY v).busCycles = s.busCycles := rfl
@[simp] theorem State.writeY_prgRom (v : Byte) : (s.writeY v).prgRom = s.prgRom := rfl
@[simp] theorem State.writeY_prgSize (v : Byte) : (s.writeY v).prgSize = s.prgSize := rfl
@[simp] theorem State.writeY_joypad (v : Byte) : (s.writeY v).joypad = s.joypad := rfl
@[simp] theorem State.writeY_ppu (v : Byte) : (s.writeY v).ppu = s.ppu := rfl
@[simp] theorem State.writeY_params (v : Byte) : (s.writeY v).params = s.params := rfl
@[simp] theorem State.writeY_hostInputs (v : Byte) : (s.writeY v).hostInputs = s.hostInputs := rfl
@[simp] theorem State.writeY_callbacks (v : Byte) : (s.writeY v).callbacks = s.callbacks := rfl

@[simp] theorem State.writeSp_a (v : Byte) : (s.writeSp v).a = s.a := rfl
@[simp] theorem State.writeSp_x (v : Byte) : (s.writeSp v).x = s.x := rfl
@[simp] theorem State.writeSp_y (v : Byte) : (s.writeSp v).y = s.y := rfl
@[simp] theorem State.writeSp_sp (v : Byte) : (s.writeSp v).sp = v := rfl
@[simp] theorem State.writeSp_p (v : Byte) : (s.writeSp v).p = s.p := rfl
@[simp] theorem State.writeSp_pc (v : Byte) : (s.writeSp v).pc = s.pc := rfl
@[simp] theorem State.writeSp_cycles (v : Byte) : (s.writeSp v).cycles = s.cycles := rfl
@[simp] theorem State.writeSp_run (v : Byte) : (s.writeSp v).run = s.run := rfl
@[simp] theorem State.writeSp_ram (v : Byte) : (s.writeSp v).ram = s.ram := rfl
@[simp] theorem State.writeSp_busCycles (v : Byte) : (s.writeSp v).busCycles = s.busCycles := rfl
@[simp] theorem State.writeSp_prgRom (v : Byte) : (s.writeSp v).prgRom = s.prgRom := rfl
@[simp] theorem State.writeSp_prgSize (v : Byte) : (s.writeSp v).prgSize = s.prgSize := rfl
@[simp] theorem State.writeSp_joypad (v : Byte) : (s.writeSp v).joypad = s.joypad := rfl
@[simp] theorem State.writeSp_ppu (v : Byte) : (s.writeSp v).ppu = s.ppu := rfl
@[simp] theorem State.writeSp_params (v : Byte) : (s.writeSp v).params = s.params := rfl
@[simp] theorem State.writeSp_hostInputs (v : Byte) : (s.writeSp v).hostInputs = s.hostInputs := rfl
@[simp] theorem State.writeSp_callbacks (v : Byte) : (s.writeSp v).callbacks = s.callbacks := rfl

@[simp] theorem State.writeP_a (v : Byte) : (s.writeP v).a = s.a := rfl
@[simp] theorem State.writeP_x (v : Byte) : (s.writeP v).x = s.x := rfl
@[simp] theorem State.writeP_y (v : Byte) : (s.writeP v).y = s.y := rfl
@[simp] theorem State.writeP_sp (v : Byte) : (s.writeP v).sp = s.sp := rfl
@[simp] theorem State.writeP_p (v : Byte) : (s.writeP v).p = v := rfl
@[simp] theorem State.writeP_pc (v : Byte) : (s.writeP v).pc = s.pc := rfl
@[simp] theorem State.writeP_cycles (v : Byte) : (s.writeP v).cycles = s.cycles := rfl
@[simp] theorem State.writeP_run (v : Byte) : (s.writeP v).run = s.run := rfl
@[simp] theorem State.writeP_ram (v : Byte) : (s.writeP v).ram = s.ram := rfl
@[simp] theorem State.writeP_busCycles (v : Byte) : (s.writeP v).busCycles = s.busCycles := rfl
@[simp] theorem State.writeP_prgRom (v : Byte) : (s.writeP v).prgRom = s.prgRom := rfl
@[simp] theorem State.writeP_prgSize (v : Byte) : (s.writeP v).prgSize = s.prgSize := rfl
@[simp] theorem State.writeP_joypad (v : Byte) : (s.writeP v).joypad = s.joypad := rfl
@[simp] theorem State.writeP_ppu (v : Byte) : (s.writeP v).ppu = s.ppu := rfl
@[simp] theorem State.writeP_params (v : Byte) : (s.writeP v).params = s.params := rfl
@[simp] theorem State.writeP_hostInputs (v : Byte) : (s.writeP v).hostInputs = s.hostInputs := rfl
@[simp] theorem State.writeP_callbacks (v : Byte) : (s.writeP v).callbacks = s.callbacks := rfl

@[simp] theorem State.setFlag_a (f : Flag) (b : Bool) : (s.setFlag f b).a = s.a := rfl
@[simp] theorem State.setFlag_x (f : Flag) (b : Bool) : (s.setFlag f b).x = s.x := rfl
@[simp] theorem State.setFlag_y (f : Flag) (b : Bool) : (s.setFlag f b).y = s.y := rfl
@[simp] theorem State.setFlag_sp (f : Flag) (b : Bool) : (s.setFlag f b).sp = s.sp := rfl
@[simp] theorem State.setFlag_p (f : Flag) (b : Bool) : (s.setFlag f b).p = withFlag s.p f b := rfl
@[simp] theorem State.setFlag_pc (f : Flag) (b : Bool) : (s.setFlag f b).pc = s.pc := rfl
@[simp] theorem State.setFlag_cycles (f : Flag) (b : Bool) : (s.setFlag f b).cycles = s.cycles := rfl
@[simp] theorem State.setFlag_run (f : Flag) (b : Bool) : (s.setFlag f b).run = s.run := rfl
@[simp] theorem State.setFlag_ram (f : Flag) (b : Bool) : (s.setFlag f b).ram = s.ram := rfl
@[simp] theorem State.setFlag_busCycles (f : Flag) (b : Bool) : (s.setFlag f b).busCycles = s.busCycles := rfl
@[simp] theorem State.setFlag_prgRom (f : Flag) (b : Bool) : (s.setFlag f b).prgRom = s.prgRom := rfl
@[simp] theorem State.setFlag_prgSize (f : Flag) (b : Bool) : (s.setFlag f b).prgSize = s.prgSize := rfl
@[simp] theorem State.setFlag_joypad (f : Flag) (b : Bool) : (s.setFlag f b).joypad = s.joypad := rfl
@[simp] theorem State.setFlag_ppu (f : Flag) (b : Bool) : (s.setFlag f b).ppu = s.ppu := rfl
@[simp] theorem State.setFlag_params (f : Flag) (b : Bool) : (s.setFlag f b).params = s.params := rfl
@[simp] theorem State.setFlag_hostInputs (f : Flag) (b : Bool) : (s.setFlag f b).hostInputs = s.hostInputs := rfl
@[simp] theorem State.setFlag_callbacks (f : Flag) (b : Bool) : (s.setFlag f b).callbacks = s.callbacks := rfl

@[simp] theorem State.setZN_a (v : Byte) : (s.setZN v).a = s.a := rfl
@[simp] theorem State.setZN_x (v : Byte) : (s.setZN v).x = s.x := rfl
@[simp] theorem State.setZN_y (v : Byte) : (s.setZN v).y = s.y := rfl
@[simp] theorem State.setZN_sp (v : Byte) : (s.setZN v).sp = s.sp := rfl
@[simp] theorem State.setZN_p (v : Byte) : (s.setZN v).p = zn s.p v := rfl
@[simp] theorem State.setZN_pc (v : Byte) : (s.setZN v).pc = s.pc := rfl
@[simp] theorem State.setZN_cycles (v : Byte) : (s.setZN v).cycles = s.cycles := rfl
@[simp] theorem State.setZN_run (v : Byte) : (s.setZN v).run = s.run := rfl
@[simp] theorem State.setZN_ram (v : Byte) : (s.setZN v).ram = s.ram := rfl
@[simp] theorem State.setZN_busCycles (v : Byte) : (s.setZN v).busCycles = s.busCycles := rfl
@[simp] theorem State.setZN_prgRom (v : Byte) : (s.setZN v).prgRom = s.prgRom := rfl
@[simp] theorem State.setZN_prgSize (v : Byte) : (s.setZN v).prgSize = s.prgSize := rfl
@[simp] theorem State.setZN_joypad (v : Byte) : (s.setZN v).joypad = s.joypad := rfl
@[simp] theorem State.setZN_ppu (v : Byte) : (s.setZN v).ppu = s.ppu := rfl
@[simp] theorem State.setZN_params (v : Byte) : (s.setZN v).params = s.params := rfl
@[simp] theorem State.setZN_hostInputs (v : Byte) : (s.setZN v).hostInputs = s.hostInputs := rfl
@[simp] theorem State.setZN_callbacks (v : Byte) : (s.setZN v).callbacks = s.callbacks := rfl

@[simp] theorem State.addWithCarry_a (m : Byte) : (s.addWithCarry m).a = addResult s.a m (s.flag .c) := rfl
@[simp] theorem State.addWithCarry_x (m : Byte) : (s.addWithCarry m).x = s.x := rfl
@[simp] theorem State.addWithCarry_y (m : Byte) : (s.addWithCarry m).y = s.y := rfl
@[simp] theorem State.addWithCarry_sp (m : Byte) : (s.addWithCarry m).sp = s.sp := rfl
@[simp] theorem State.addWithCarry_p (m : Byte) : (s.addWithCarry m).p = addStatus s.p s.a m := rfl
@[simp] theorem State.addWithCarry_pc (m : Byte) : (s.addWithCarry m).pc = s.pc := rfl
@[simp] theorem State.addWithCarry_cycles (m : Byte) : (s.addWithCarry m).cycles = s.cycles := rfl
@[simp] theorem State.addWithCarry_run (m : Byte) : (s.addWithCarry m).run = s.run := rfl
@[simp] theorem State.addWithCarry_ram (m : Byte) : (s.addWithCarry m).ram = s.ram := rfl
@[simp] theorem State.addWithCarry_busCycles (m : Byte) : (s.addWithCarry m).busCycles = s.busCycles := rfl
@[simp] theorem State.addWithCarry_prgRom (m : Byte) : (s.addWithCarry m).prgRom = s.prgRom := rfl
@[simp] theorem State.addWithCarry_prgSize (m : Byte) : (s.addWithCarry m).prgSize = s.prgSize := rfl
@[simp] theorem State.addWithCarry_joypad (m : Byte) : (s.addWithCarry m).joypad = s.joypad := rfl
@[simp] theorem State.addWithCarry_ppu (m : Byte) : (s.addWithCarry m).ppu = s.ppu := rfl
@[simp] theorem State.addWithCarry_params (m : Byte) : (s.addWithCarry m).params = s.params := rfl
@[simp] theorem State.addWithCarry_hostInputs (m : Byte) : (s.addWithCarry m).hostInputs = s.hostInputs := rfl
@[simp] theorem State.addWithCarry_callbacks (m : Byte) : (s.addWithCarry m).callbacks = s.callbacks := rfl

@[simp] theorem State.compare_a (v m : Byte) : (s.compare v m).a = s.a := rfl
@[simp] theorem State.compare_x (v m : Byte) : (s.compare v m).x = s.x := rfl
@[simp] theorem State.compare_y (v m : Byte) : (s.compare v m).y = s.y := rfl
@[simp] theorem State.compare_sp (v m : Byte) : (s.compare v m).sp = s.sp := rfl
@[simp] theorem State.compare_p (v m : Byte) : (s.compare v m).p = compareStatus s.p v m := rfl
@[simp] theorem State.compare_pc (v m : Byte) : (s.compare v m).pc = s.pc := rfl
@[simp] theorem State.compare_cycles (v m : Byte) : (s.compare v m).cycles = s.cycles := rfl
@[simp] theorem State.compare_run (v m : Byte) : (s.compare v m).run = s.run := rfl
@[simp] theorem State.compare_ram (v m : Byte) : (s.compare v m).ram = s.ram := rfl
@[simp] theorem State.compare_busCycles (v m : Byte) : (s.compare v m).busCycles = s.busCycles := rfl
@[simp] theorem State.compare_prgRom (v m : Byte) : (s.compare v m).prgRom = s.prgRom := rfl
@[simp] theorem State.compare_prgSize (v m : Byte) : (s.compare v m).prgSize = s.prgSize := rfl
@[simp] theorem State.compare_joypad (v m : Byte) : (s.compare v m).joypad = s.joypad := rfl
@[simp] theorem State.compare_ppu (v m : Byte) : (s.compare v m).ppu = s.ppu := rfl
@[simp] theorem State.compare_params (v m : Byte) : (s.compare v m).params = s.params := rfl
@[simp] theorem State.compare_hostInputs (v m : Byte) : (s.compare v m).hostInputs = s.hostInputs := rfl
@[simp] theorem State.compare_callbacks (v m : Byte) : (s.compare v m).callbacks = s.callbacks := rfl

@[simp] theorem State.afterShift_a (k : Shift) (m r : Byte) : (s.afterShift k m r).a = s.a := rfl
@[simp] theorem State.afterShift_x (k : Shift) (m r : Byte) : (s.afterShift k m r).x = s.x := rfl
@[simp] theorem State.afterShift_y (k : Shift) (m r : Byte) : (s.afterShift k m r).y = s.y := rfl
@[simp] theorem State.afterShift_sp (k : Shift) (m r : Byte) : (s.afterShift k m r).sp = s.sp := rfl
@[simp] theorem State.afterShift_p (k : Shift) (m r : Byte) : (s.afterShift k m r).p = zn (withFlag s.p .c (k.carry m)) r := rfl
@[simp] theorem State.afterShift_pc (k : Shift) (m r : Byte) : (s.afterShift k m r).pc = s.pc := rfl
@[simp] theorem State.afterShift_cycles (k : Shift) (m r : Byte) : (s.afterShift k m r).cycles = s.cycles := rfl
@[simp] theorem State.afterShift_run (k : Shift) (m r : Byte) : (s.afterShift k m r).run = s.run := rfl
@[simp] theorem State.afterShift_ram (k : Shift) (m r : Byte) : (s.afterShift k m r).ram = s.ram := rfl
@[simp] theorem State.afterShift_busCycles (k : Shift) (m r : Byte) : (s.afterShift k m r).busCycles = s.busCycles := rfl
@[simp] theorem State.afterShift_prgRom (k : Shift) (m r : Byte) : (s.afterShift k m r).prgRom = s.prgRom := rfl
@[simp] theorem State.afterShift_prgSize (k : Shift) (m r : Byte) : (s.afterShift k m r).prgSize = s.prgSize := rfl
@[simp] theorem State.afterShift_joypad (k : Shift) (m r : Byte) : (s.afterShift k m r).joypad = s.joypad := rfl
@[simp] theorem State.afterShift_ppu (k : Shift) (m r : Byte) : (s.afterShift k m r).ppu = s.ppu := rfl
@[simp] theorem State.afterShift_params (k : Shift) (m r : Byte) : (s.afterShift k m r).params = s.params := rfl
@[simp] theorem State.afterShift_hostInputs (k : Shift) (m r : Byte) : (s.afterShift k m r).hostInputs = s.hostInputs := rfl
@[simp] theorem State.afterShift_callbacks (k : Shift) (m r : Byte) : (s.afterShift k m r).callbacks = s.callbacks := rfl

@[simp] theorem State.shiftA_a (k : Shift) : (s.shiftA k).a = k.result s.a (s.flag .c) := rfl
@[simp] theorem State.shiftA_x (k : Shift) : (s.shiftA k).x = s.x := rfl
@[simp] theorem State.shiftA_y (k : Shift) : (s.shiftA k).y = s.y := rfl
@[simp] theorem State.shiftA_sp (k : Shift) : (s.shiftA k).sp = s.sp := rfl
@[simp] theorem State.shiftA_p (k : Shift) : (s.shiftA k).p = zn (withFlag s.p .c (k.carry s.a)) (k.result s.a (s.flag .c)) := rfl
@[simp] theorem State.shiftA_pc (k : Shift) : (s.shiftA k).pc = s.pc := rfl
@[simp] theorem State.shiftA_cycles (k : Shift) : (s.shiftA k).cycles = s.cycles := rfl
@[simp] theorem State.shiftA_run (k : Shift) : (s.shiftA k).run = s.run := rfl
@[simp] theorem State.shiftA_ram (k : Shift) : (s.shiftA k).ram = s.ram := rfl
@[simp] theorem State.shiftA_busCycles (k : Shift) : (s.shiftA k).busCycles = s.busCycles := rfl
@[simp] theorem State.shiftA_prgRom (k : Shift) : (s.shiftA k).prgRom = s.prgRom := rfl
@[simp] theorem State.shiftA_prgSize (k : Shift) : (s.shiftA k).prgSize = s.prgSize := rfl
@[simp] theorem State.shiftA_joypad (k : Shift) : (s.shiftA k).joypad = s.joypad := rfl
@[simp] theorem State.shiftA_ppu (k : Shift) : (s.shiftA k).ppu = s.ppu := rfl
@[simp] theorem State.shiftA_params (k : Shift) : (s.shiftA k).params = s.params := rfl
@[simp] theorem State.shiftA_hostInputs (k : Shift) : (s.shiftA k).hostInputs = s.hostInputs := rfl
@[simp] theorem State.shiftA_callbacks (k : Shift) : (s.shiftA k).callbacks = s.callbacks := rfl

@[simp] theorem writeRam_a (a : Addr) (v : Byte) : (writeRam s a v).a = s.a := rfl
@[simp] theorem writeRam_x (a : Addr) (v : Byte) : (writeRam s a v).x = s.x := rfl
@[simp] theorem writeRam_y (a : Addr) (v : Byte) : (writeRam s a v).y = s.y := rfl
@[simp] theorem writeRam_sp (a : Addr) (v : Byte) : (writeRam s a v).sp = s.sp := rfl
@[simp] theorem writeRam_p (a : Addr) (v : Byte) : (writeRam s a v).p = s.p := rfl
@[simp] theorem writeRam_pc (a : Addr) (v : Byte) : (writeRam s a v).pc = s.pc := rfl
@[simp] theorem writeRam_cycles (a : Addr) (v : Byte) : (writeRam s a v).cycles = s.cycles := rfl
@[simp] theorem writeRam_run (a : Addr) (v : Byte) : (writeRam s a v).run = s.run := rfl
@[simp] theorem writeRam_ram (a : Addr) (v : Byte) : (writeRam s a v).ram = s.ram.write (ramCell a) v := rfl
@[simp] theorem writeRam_busCycles (a : Addr) (v : Byte) : (writeRam s a v).busCycles = s.busCycles := rfl
@[simp] theorem writeRam_prgRom (a : Addr) (v : Byte) : (writeRam s a v).prgRom = s.prgRom := rfl
@[simp] theorem writeRam_prgSize (a : Addr) (v : Byte) : (writeRam s a v).prgSize = s.prgSize := rfl
@[simp] theorem writeRam_joypad (a : Addr) (v : Byte) : (writeRam s a v).joypad = s.joypad := rfl
@[simp] theorem writeRam_ppu (a : Addr) (v : Byte) : (writeRam s a v).ppu = s.ppu := rfl
@[simp] theorem writeRam_params (a : Addr) (v : Byte) : (writeRam s a v).params = s.params := rfl
@[simp] theorem writeRam_hostInputs (a : Addr) (v : Byte) : (writeRam s a v).hostInputs = s.hostInputs := rfl
@[simp] theorem writeRam_callbacks (a : Addr) (v : Byte) : (writeRam s a v).callbacks = s.callbacks := rfl

@[simp] theorem push8_a (v : Byte) : (push8 s v).a = s.a := rfl
@[simp] theorem push8_x (v : Byte) : (push8 s v).x = s.x := rfl
@[simp] theorem push8_y (v : Byte) : (push8 s v).y = s.y := rfl
@[simp] theorem push8_sp (v : Byte) : (push8 s v).sp = s.sp - 1 := rfl
@[simp] theorem push8_p (v : Byte) : (push8 s v).p = s.p := rfl
@[simp] theorem push8_pc (v : Byte) : (push8 s v).pc = s.pc := rfl
@[simp] theorem push8_cycles (v : Byte) : (push8 s v).cycles = s.cycles := rfl
@[simp] theorem push8_run (v : Byte) : (push8 s v).run = s.run := rfl
@[simp] theorem push8_ram (v : Byte) : (push8 s v).ram = s.ram.write (ramCell (stackAddr s.sp)) v := rfl
@[simp] theorem push8_busCycles (v : Byte) : (push8 s v).busCycles = s.busCycles := rfl
@[simp] theorem push8_prgRom (v : Byte) : (push8 s v).prgRom = s.prgRom := rfl
@[simp] theorem push8_prgSize (v : Byte) : (push8 s v).prgSize = s.prgSize := rfl
@[simp] theorem push8_joypad (v : Byte) : (push8 s v).joypad = s.joypad := rfl
@[simp] theorem push8_ppu (v : Byte) : (push8 s v).ppu = s.ppu := rfl
@[simp] theorem push8_params (v : Byte) : (push8 s v).params = s.params := rfl
@[simp] theorem push8_hostInputs (v : Byte) : (push8 s v).hostInputs = s.hostInputs := rfl
@[simp] theorem push8_callbacks (v : Byte) : (push8 s v).callbacks = s.callbacks := rfl

@[simp] theorem push16_a (v : Addr) : (push16 s v).a = s.a := by simp only [push16, push8_a]
@[simp] theorem push16_x (v : Addr) : (push16 s v).x = s.x := by simp only [push16, push8_x]
@[simp] theorem push16_y (v : Addr) : (push16 s v).y = s.y := by simp only [push16, push8_y]
@[simp] theorem push16_sp (v : Addr) : (push16 s v).sp = s.sp - 1 - 1 := by simp only [push16, push8_sp]
@[simp] theorem push16_p (v : Addr) : (push16 s v).p = s.p := by simp only [push16, push8_p]
@[simp] theorem push16_pc (v : Addr) : (push16 s v).pc = s.pc := by simp only [push16, push8_pc]
@[simp] theorem push16_cycles (v : Addr) : (push16 s v).cycles = s.cycles := by simp only [push16, push8_cycles]
@[simp] theorem push16_run (v : Addr) : (push16 s v).run = s.run := by simp only [push16, push8_run]
@[simp] theorem push16_ram (v : Addr) : (push16 s v).ram = (s.ram.write (ramCell (stackAddr s.sp)) (hiByte v)).write (ramCell (stackAddr (s.sp - 1))) (loByte v) := by simp only [push16, push8_ram, push8_sp]
@[simp] theorem push16_busCycles (v : Addr) : (push16 s v).busCycles = s.busCycles := by simp only [push16, push8_busCycles]
@[simp] theorem push16_prgRom (v : Addr) : (push16 s v).prgRom = s.prgRom := by simp only [push16, push8_prgRom]
@[simp] theorem push16_prgSize (v : Addr) : (push16 s v).prgSize = s.prgSize := by simp only [push16, push8_prgSize]
@[simp] theorem push16_joypad (v : Addr) : (push16 s v).joypad = s.joypad := by simp only [push16, push8_joypad]
@[simp] theorem push16_ppu (v : Addr) : (push16 s v).ppu = s.ppu := by simp only [push16, push8_ppu]
@[simp] theorem push16_params (v : Addr) : (push16 s v).params = s.params := by simp only [push16, push8_params]
@[simp] theorem push16_hostInputs (v : Addr) : (push16 s v).hostInputs = s.hostInputs := by simp only [push16, push8_hostInputs]
@[simp] theorem push16_callbacks (v : Addr) : (push16 s v).callbacks = s.callbacks := by simp only [push16, push8_callbacks]

@[simp] theorem pull8_a : (pull8 s).a = s.a := rfl
@[simp] theorem pull8_x : (pull8 s).x = s.x := rfl
@[simp] theorem pull8_y : (pull8 s).y = s.y := rfl
@[simp] theorem pull8_sp : (pull8 s).sp = s.sp + 1 := rfl
@[simp] theorem pull8_p : (pull8 s).p = s.p := rfl
@[simp] theorem pull8_pc : (pull8 s).pc = s.pc := rfl
@[simp] theorem pull8_cycles : (pull8 s).cycles = s.cycles := rfl
@[simp] theorem pull8_run : (pull8 s).run = s.run := rfl
@[simp] theorem pull8_ram : (pull8 s).ram = s.ram := rfl
@[simp] theorem pull8_busCycles : (pull8 s).busCycles = s.busCycles := rfl
@[simp] theorem pull8_prgRom : (pull8 s).prgRom = s.prgRom := rfl
@[simp] theorem pull8_prgSize : (pull8 s).prgSize = s.prgSize := rfl
@[simp] theorem pull8_joypad : (pull8 s).joypad = s.joypad := rfl
@[simp] theorem pull8_ppu : (pull8 s).ppu = s.ppu := rfl
@[simp] theorem pull8_params : (pull8 s).params = s.params := rfl
@[simp] theorem pull8_hostInputs : (pull8 s).hostInputs = s.hostInputs := rfl
@[simp] theorem pull8_callbacks : (pull8 s).callbacks = s.callbacks := rfl

@[simp] theorem pull16_a : (pull16 s).a = s.a := by simp only [pull16, pull8_a]
@[simp] theorem pull16_x : (pull16 s).x = s.x := by simp only [pull16, pull8_x]
@[simp] theorem pull16_y : (pull16 s).y = s.y := by simp only [pull16, pull8_y]
@[simp] theorem pull16_sp : (pull16 s).sp = s.sp + 1 + 1 := by simp only [pull16, pull8_sp]
@[simp] theorem pull16_p : (pull16 s).p = s.p := by simp only [pull16, pull8_p]
@[simp] theorem pull16_pc : (pull16 s).pc = s.pc := by simp only [pull16, pull8_pc]
@[simp] theorem pull16_cycles : (pull16 s).cycles = s.cycles := by simp only [pull16, pull8_cycles]
@[simp] theorem pull16_run : (pull16 s).run = s.run := by simp only [pull16, pull8_run]
@[simp] theorem pull16_ram : (pull16 s).ram = s.ram := by simp only [pull16, pull8_ram]
@[simp] theorem pull16_busCycles : (pull16 s).busCycles = s.busCycles := by simp only [pull16, pull8_busCycles]
@[simp] theorem pull16_prgRom : (pull16 s).prgRom = s.prgRom := by simp only [pull16, pull8_prgRom]
@[simp] theorem pull16_prgSize : (pull16 s).prgSize = s.prgSize := by simp only [pull16, pull8_prgSize]
@[simp] theorem pull16_joypad : (pull16 s).joypad = s.joypad := by simp only [pull16, pull8_joypad]
@[simp] theorem pull16_ppu : (pull16 s).ppu = s.ppu := by simp only [pull16, pull8_ppu]
@[simp] theorem pull16_params : (pull16 s).params = s.params := by simp only [pull16, pull8_params]
@[simp] theorem pull16_hostInputs : (pull16 s).hostInputs = s.hostInputs := by simp only [pull16, pull8_hostInputs]
@[simp] theorem pull16_callbacks : (pull16 s).callbacks = s.callbacks := by simp only [pull16, pull8_callbacks]

@[simp] theorem complete_a (length cost : Nat) : (complete length cost s).a = s.a := rfl
@[simp] theorem complete_x (length cost : Nat) : (complete length cost s).x = s.x := rfl
@[simp] theorem complete_y (length cost : Nat) : (complete length cost s).y = s.y := rfl
@[simp] theorem complete_sp (length cost : Nat) : (complete length cost s).sp = s.sp := rfl
@[simp] theorem complete_p (length cost : Nat) : (complete length cost s).p = s.p := rfl
@[simp] theorem complete_pc (length cost : Nat) : (complete length cost s).pc = s.pc + BitVec.ofNat 16 (length - 1) := rfl
@[simp] theorem complete_cycles (length cost : Nat) : (complete length cost s).cycles = s.cycles + cost := rfl
@[simp] theorem complete_run (length cost : Nat) : (complete length cost s).run = s.run := rfl
@[simp] theorem complete_ram (length cost : Nat) : (complete length cost s).ram = s.ram := rfl
@[simp] theorem complete_busCycles (length cost : Nat) : (complete length cost s).busCycles = s.busCycles := rfl
@[simp] theorem complete_prgRom (length cost : Nat) : (complete length cost s).prgRom = s.prgRom := rfl
@[simp] theorem complete_prgSize (length cost : Nat) : (complete length cost s).prgSize = s.prgSize := rfl
@[simp] theorem complete_joypad (length cost : Nat) : (complete length cost s).joypad = s.joypad := rfl
@[simp] theorem complete_ppu (length cost : Nat) : (complete length cost s).ppu = s.ppu := rfl
@[simp] theorem complete_params (length cost : Nat) : (complete length cost s).params = s.params := rfl
@[simp] theorem complete_hostInputs (length cost : Nat) : (complete length cost s).hostInputs = s.hostInputs := rfl
@[simp] theorem complete_callbacks (length cost : Nat) : (complete length cost s).callbacks = s.callbacks := rfl

@[simp] theorem jumpTo_a (length cost : Nat) (target : Addr) : (jumpTo length cost target s).a = s.a := rfl
@[simp] theorem jumpTo_x (length cost : Nat) (target : Addr) : (jumpTo length cost target s).x = s.x := rfl
@[simp] theorem jumpTo_y (length cost : Nat) (target : Addr) : (jumpTo length cost target s).y = s.y := rfl
@[simp] theorem jumpTo_sp (length cost : Nat) (target : Addr) : (jumpTo length cost target s).sp = s.sp := rfl
@[simp] theorem jumpTo_p (length cost : Nat) (target : Addr) : (jumpTo length cost target s).p = s.p := rfl
@[simp] theorem jumpTo_pc (length cost : Nat) (target : Addr) : (jumpTo length cost target s).pc = landing length target s := rfl
@[simp] theorem jumpTo_cycles (length cost : Nat) (target : Addr) : (jumpTo length cost target s).cycles = s.cycles + cost := rfl
@[simp] theorem jumpTo_run (length cost : Nat) (target : Addr) : (jumpTo length cost target s).run = s.run := rfl
@[simp] theorem jumpTo_ram (length cost : Nat) (target : Addr) : (jumpTo length cost target s).ram = s.ram := rfl
@[simp] theorem jumpTo_busCycles (length cost : Nat) (target : Addr) : (jumpTo length cost target s).busCycles = s.busCycles := rfl
@[simp] theorem jumpTo_prgRom (length cost : Nat) (target : Addr) : (jumpTo length cost target s).prgRom = s.prgRom := rfl
@[simp] theorem jumpTo_prgSize (length cost : Nat) (target : Addr) : (jumpTo length cost target s).prgSize = s.prgSize := rfl
@[simp] theorem jumpTo_joypad (length cost : Nat) (target : Addr) : (jumpTo length cost target s).joypad = s.joypad := rfl
@[simp] theorem jumpTo_ppu (length cost : Nat) (target : Addr) : (jumpTo length cost target s).ppu = s.ppu := rfl
@[simp] theorem jumpTo_params (length cost : Nat) (target : Addr) : (jumpTo length cost target s).params = s.params := rfl
@[simp] theorem jumpTo_hostInputs (length cost : Nat) (target : Addr) : (jumpTo length cost target s).hostInputs = s.hostInputs := rfl
@[simp] theorem jumpTo_callbacks (length cost : Nat) (target : Addr) : (jumpTo length cost target s).callbacks = s.callbacks := rfl

@[simp] theorem pollNmi_a : (pollNmi s).a = s.a := rfl
@[simp] theorem pollNmi_x : (pollNmi s).x = s.x := rfl
@[simp] theorem pollNmi_y : (pollNmi s).y = s.y := rfl
@[simp] theorem pollNmi_sp : (pollNmi s).sp = s.sp := rfl
@[simp] theorem pollNmi_p : (pollNmi s).p = s.p := rfl
@[simp] theorem pollNmi_pc : (pollNmi s).pc = s.pc := rfl
@[simp] theorem pollNmi_cycles : (pollNmi s).cycles = s.cycles := rfl
@[simp] theorem pollNmi_run : (pollNmi s).run = s.run := rfl
@[simp] theorem pollNmi_ram : (pollNmi s).ram = s.ram := rfl
@[simp] theorem pollNmi_busCycles : (pollNmi s).busCycles = s.busCycles := rfl
@[simp] theorem pollNmi_prgRom : (pollNmi s).prgRom = s.prgRom := rfl
@[simp] theorem pollNmi_prgSize : (pollNmi s).prgSize = s.prgSize := rfl
@[simp] theorem pollNmi_joypad : (pollNmi s).joypad = s.joypad := rfl
@[simp] theorem pollNmi_ppu : (pollNmi s).ppu = { s.ppu with nmiPending := false } := rfl
@[simp] theorem pollNmi_params : (pollNmi s).params = s.params := rfl
@[simp] theorem pollNmi_hostInputs : (pollNmi s).hostInputs = s.hostInputs := rfl
@[simp] theorem pollNmi_callbacks : (pollNmi s).callbacks = s.callbacks := rfl

@[simp] theorem takeInterrupt_a (back : Addr) (status : Byte) (vector : Addr) : (takeInterrupt back status vector s).a = s.a := by simp only [takeInterrupt, State.setFlag_a, push8_a, push16_a]
@[simp] theorem takeInterrupt_x (back : Addr) (status : Byte) (vector : Addr) : (takeInterrupt back status vector s).x = s.x := by simp only [takeInterrupt, State.setFlag_x, push8_x, push16_x]
@[simp] theorem takeInterrupt_y (back : Addr) (status : Byte) (vector : Addr) : (takeInterrupt back status vector s).y = s.y := by simp only [takeInterrupt, State.setFlag_y, push8_y, push16_y]
@[simp] theorem takeInterrupt_sp (back : Addr) (status : Byte) (vector : Addr) : (takeInterrupt back status vector s).sp = s.sp - 1 - 1 - 1 := by simp only [takeInterrupt, State.setFlag_sp, push8_sp, push16_sp]
@[simp] theorem takeInterrupt_p (back : Addr) (status : Byte) (vector : Addr) : (takeInterrupt back status vector s).p = withFlag s.p .i true := by simp only [takeInterrupt, State.setFlag_p, push8_p, push16_p]
@[simp] theorem takeInterrupt_pc (back : Addr) (status : Byte) (vector : Addr) : (takeInterrupt back status vector s).pc = peek16 ((push8 (push16 s back) status).setFlag .i true) vector := rfl
@[simp] theorem takeInterrupt_cycles (back : Addr) (status : Byte) (vector : Addr) : (takeInterrupt back status vector s).cycles = s.cycles := by simp only [takeInterrupt, State.setFlag_cycles, push8_cycles, push16_cycles]
@[simp] theorem takeInterrupt_run (back : Addr) (status : Byte) (vector : Addr) : (takeInterrupt back status vector s).run = s.run := by simp only [takeInterrupt, State.setFlag_run, push8_run, push16_run]
@[simp] theorem takeInterrupt_ram (back : Addr) (status : Byte) (vector : Addr) : (takeInterrupt back status vector s).ram = (push8 (push16 s back) status).ram := by simp only [takeInterrupt, State.setFlag_ram]
@[simp] theorem takeInterrupt_busCycles (back : Addr) (status : Byte) (vector : Addr) : (takeInterrupt back status vector s).busCycles = s.busCycles := by simp only [takeInterrupt, State.setFlag_busCycles, push8_busCycles, push16_busCycles]
@[simp] theorem takeInterrupt_prgRom (back : Addr) (status : Byte) (vector : Addr) : (takeInterrupt back status vector s).prgRom = s.prgRom := by simp only [takeInterrupt, State.setFlag_prgRom, push8_prgRom, push16_prgRom]
@[simp] theorem takeInterrupt_prgSize (back : Addr) (status : Byte) (vector : Addr) : (takeInterrupt back status vector s).prgSize = s.prgSize := by simp only [takeInterrupt, State.setFlag_prgSize, push8_prgSize, push16_prgSize]
@[simp] theorem takeInterrupt_joypad (back : Addr) (status : Byte) (vector : Addr) : (takeInterrupt back status vector s).joypad = s.joypad := by simp only [takeInterrupt, State.setFlag_joypad, push8_joypad, push16_joypad]
@[simp] theorem takeInterrupt_ppu (back : Addr) (status : Byte) (vector : Addr) : (takeInterrupt back status vector s).ppu = s.ppu := by simp only [takeInterrupt, State.setFlag_ppu, push8_ppu, push16_ppu]
@[simp] theorem takeInterrupt_params (back : Addr) (status : Byte) (vector : Addr) : (takeInterrupt back status vector s).params = s.params := by simp only [takeInterrupt, State.setFlag_params, push8_params, push16_params]
@[simp] theorem takeInterrupt_hostInputs (back : Addr) (status : Byte) (vector : Addr) : (takeInterrupt back status vector s).hostInputs = s.hostInputs := by simp only [takeInterrupt, State.setFlag_hostInputs, push8_hostInputs, push16_hostInputs]
@[simp] theorem takeInterrupt_callbacks (back : Addr) (status : Byte) (vector : Addr) : (takeInterrupt back status vector s).callbacks = s.callbacks := by simp only [takeInterrupt, State.setFlag_callbacks, push8_callbacks, push16_callbacks]

@[simp] theorem returnFromInterrupt_a : (returnFromInterrupt s).a = s.a := by simp only [returnFromInterrupt, pull16_a, State.writeP_a, pull8_a]
@[simp] theorem returnFromInterrupt_x : (returnFromInterrupt s).x = s.x := by simp only [returnFromInterrupt, pull16_x, State.writeP_x, pull8_x]
@[simp] theorem returnFromInterrupt_y : (returnFromInterrupt s).y = s.y := by simp only [returnFromInterrupt, pull16_y, State.writeP_y, pull8_y]
@[simp] theorem returnFromInterrupt_sp : (returnFromInterrupt s).sp = s.sp + 1 + 1 + 1 := by simp only [returnFromInterrupt, pull16_sp, State.writeP_sp, pull8_sp]
@[simp] theorem returnFromInterrupt_p : (returnFromInterrupt s).p = withoutBreak (pulled8 s) := by simp only [returnFromInterrupt, pull16_p, State.writeP_p]
@[simp] theorem returnFromInterrupt_pc : (returnFromInterrupt s).pc = pulled16 ((pull8 s).writeP (withoutBreak (pulled8 s))) := rfl
@[simp] theorem returnFromInterrupt_cycles : (returnFromInterrupt s).cycles = s.cycles := by simp only [returnFromInterrupt, pull16_cycles, State.writeP_cycles, pull8_cycles]
@[simp] theorem returnFromInterrupt_run : (returnFromInterrupt s).run = s.run := by simp only [returnFromInterrupt, pull16_run, State.writeP_run, pull8_run]
@[simp] theorem returnFromInterrupt_ram : (returnFromInterrupt s).ram = s.ram := by simp only [returnFromInterrupt, pull16_ram, State.writeP_ram, pull8_ram]
@[simp] theorem returnFromInterrupt_busCycles : (returnFromInterrupt s).busCycles = s.busCycles := by simp only [returnFromInterrupt, pull16_busCycles, State.writeP_busCycles, pull8_busCycles]
@[simp] theorem returnFromInterrupt_prgRom : (returnFromInterrupt s).prgRom = s.prgRom := by simp only [returnFromInterrupt, pull16_prgRom, State.writeP_prgRom, pull8_prgRom]
@[simp] theorem returnFromInterrupt_prgSize : (returnFromInterrupt s).prgSize = s.prgSize := by simp only [returnFromInterrupt, pull16_prgSize, State.writeP_prgSize, pull8_prgSize]
@[simp] theorem returnFromInterrupt_joypad : (returnFromInterrupt s).joypad = s.joypad := by simp only [returnFromInterrupt, pull16_joypad, State.writeP_joypad, pull8_joypad]
@[simp] theorem returnFromInterrupt_ppu : (returnFromInterrupt s).ppu = s.ppu := by simp only [returnFromInterrupt, pull16_ppu, State.writeP_ppu, pull8_ppu]
@[simp] theorem returnFromInterrupt_params : (returnFromInterrupt s).params = s.params := by simp only [returnFromInterrupt, pull16_params, State.writeP_params, pull8_params]
@[simp] theorem returnFromInterrupt_hostInputs : (returnFromInterrupt s).hostInputs = s.hostInputs := by simp only [returnFromInterrupt, pull16_hostInputs, State.writeP_hostInputs, pull8_hostInputs]
@[simp] theorem returnFromInterrupt_callbacks : (returnFromInterrupt s).callbacks = s.callbacks := by simp only [returnFromInterrupt, pull16_callbacks, State.writeP_callbacks, pull8_callbacks]

end Sys2Proof.Machine
end

