-- ==== Sys2Proof/Laws/Flags.lean ====
section
/-! SUPPORT. The status byte flag by flag: what each flag computation leaves in each flag. -/

namespace Sys2Proof.Machine

/-- A flag after one flag is set to a value. -/
theorem flagOf_withFlag (p : Byte) (f g : Flag) (b : Bool) : flagOf (withFlag p f b) g = if g = f then b else flagOf p g := by
  unfold flagOf withFlag
  cases b <;> simp only [Bool.false_eq_true, if_false, if_true] <;> cases f <;> cases g <;>
    simp [Flag.bit]

/-- The flags after `SetZN`. -/
theorem flagOf_zn (p v : Byte) (g : Flag) :
    flagOf (zn p v) g = if g = .n then v.getLsbD 7 else if g = .z then decide (v = 0) else flagOf p g := by
  have h : (v == 0) = decide (v = 0) := by rw [Bool.eq_iff_iff]; simp
  unfold zn
  rw [flagOf_withFlag, flagOf_withFlag, h]

/-- The flags of a status byte determine it. -/
theorem status_ext {p q : Byte} (h : ∀ f : Flag, flagOf p f = flagOf q f) : p = q := by
  apply BitVec.eq_of_getLsbD_eq
  intro i hi
  have hs : i = 0 ∨ i = 1 ∨ i = 2 ∨ i = 3 ∨ i = 4 ∨ i = 5 ∨ i = 6 ∨ i = 7 := by omega
  rcases hs with rfl | rfl | rfl | rfl | rfl | rfl | rfl | rfl
  · exact h .c
  · exact h .z
  · exact h .i
  · exact h .d
  · exact h .b
  · exact h .u
  · exact h .v
  · exact h .n

/-- The flags after `AddWithCarry`. -/
theorem flagOf_addStatus (p a m : Byte) (g : Flag) :
    flagOf (addStatus p a m) g =
      if g = .n then (addResult a m (flagOf p .c)).getLsbD 7
      else if g = .z then decide (addResult a m (flagOf p .c) = 0)
      else if g = .v then addOverflow a m (addResult a m (flagOf p .c))
      else if g = .c then decide (0xFF < addSum a m (flagOf p .c)) else flagOf p g := by
  unfold addStatus
  simp only [flagOf_zn, flagOf_withFlag]

/-- The flags after `Compare`. -/
theorem flagOf_compareStatus (p v m : Byte) (g : Flag) :
    flagOf (compareStatus p v m) g =
      if g = .n then (v - m).getLsbD 7 else if g = .z then decide (v - m = 0)
      else if g = .c then decide (m ≤ v) else flagOf p g := by
  unfold compareStatus
  simp only [flagOf_zn, flagOf_withFlag]

/-- The flags after BIT. -/
theorem flagOf_bitStatus (p a m : Byte) (g : Flag) :
    flagOf (bitStatus p a m) g =
      if g = .v then m.getLsbD 6 else if g = .n then m.getLsbD 7 else if g = .z then decide (a &&& m = 0) else flagOf p g := by
  have h : ((a &&& m) == 0) = decide (a &&& m = 0) := by rw [Bool.eq_iff_iff]; simp
  unfold bitStatus
  simp only [flagOf_withFlag, h]

/-- The flags of a status byte with break cleared and break2 set. -/
theorem flagOf_withoutBreak (p : Byte) (g : Flag) :
    flagOf (withoutBreak p) g = if g = .b then false else if g = .u then true else flagOf p g := by
  cases g <;> simp [flagOf, withoutBreak, Flag.bit]

/-- The flags of a pushed copy with break and break2 set. -/
theorem flagOf_pushedWithBreak (p : Byte) (g : Flag) :
    flagOf (pushedWithBreak p) g = if g = .b then true else if g = .u then true else flagOf p g := by
  cases g <;> simp [flagOf, pushedWithBreak, Flag.bit]

/-- The overflow flag of `AddWithCarry` says that the signed sum does not fit in eight bits. -/
theorem addOverflow_eq (a m : Byte) (c : Bool) :
    addOverflow a m (addResult a m c)
      = decide (a.toInt + m.toInt + (c.toNat : Int) < -128 ∨ 127 < a.toInt + m.toInt + (c.toNat : Int)) := by
  have hb : ∀ w : Byte, ((w &&& 0x80#8) != 0) = w.getLsbD 7 := by decide
  have hm : ∀ w : Byte, w.getLsbD 7 = decide (128 ≤ w.toNat) := by decide
  have hr : (addResult a m c).toNat = (a.toNat + m.toNat + c.toNat) % 256 := by simp [addResult, addSum]
  unfold addOverflow
  rw [hb, BitVec.getLsbD_and, BitVec.getLsbD_xor, BitVec.getLsbD_xor, hm, hm, hm, hr, BitVec.toInt_eq_toNat_cond,
    BitVec.toInt_eq_toNat_cond]
  have h1 := a.isLt; have h2 := m.isLt; have h3 := c.toNat_lt
  generalize a.toNat = x at *; generalize m.toNat = y at *; generalize c.toNat = z at *
  by_cases hx : 128 ≤ x <;> by_cases hy : 128 ≤ y <;> by_cases hz : 128 ≤ (x + y + z) % 256 <;>
    simp only [hx, hy, hz, decide_true, decide_false, Bool.xor_true, Bool.xor_false, Bool.not_true, Bool.not_false, Bool.and_true,
      Bool.and_false] <;> symm <;> simp only [decide_eq_true_eq, decide_eq_false_iff_not] <;> split <;> split <;> omega

end Sys2Proof.Machine
end

