-- ==== Sys2Proof/Laws/Memory.lean ====
section
/-! SUPPORT. What a memory and a frame do: a read after a write, and the canonical form, which every write keeps. -/

namespace Sys2Proof

namespace Memory

theorem wfFrom_mono {lo lo' : Nat} (h : lo' ≤ lo) : ∀ {m : Memory}, wfFrom lo m = true → wfFrom lo' m = true
  | [], _ => rfl
  | (k, v) :: m, hm => by
    simp only [wfFrom, Bool.and_eq_true, decide_eq_true_eq] at hm ⊢
    exact ⟨⟨by omega, hm.1.2⟩, hm.2⟩

theorem read_below : ∀ {m : Memory} {lo a : Nat}, wfFrom lo m = true → a < lo → read m a = unlisted
  | [], _, _, _, _ => rfl
  | (k, v) :: m, lo, a, h, ha => by
    simp only [wfFrom, Bool.and_eq_true, decide_eq_true_eq] at h
    have h1 : a ≠ k := by omega
    have h2 : a < k := by omega
    simp [read, h1, h2]

theorem wfFrom_write : ∀ {m : Memory} {lo a : Nat} (v : Byte), wfFrom lo m = true → lo ≤ a → wfFrom lo (write m a v) = true
  | [], lo, a, v, _, ha => by
    unfold write; split <;> simp_all [wfFrom]
  | (k, b) :: m, lo, a, v, h, ha => by
    simp only [wfFrom, Bool.and_eq_true, decide_eq_true_eq] at h
    unfold write
    split
    · split
      · simp [wfFrom, h.1.1, h.1.2, h.2]
      · next h1 h2 => simp [wfFrom, ha, h2, h.1.2, h.2]; omega
    · split
      · next h1 h2 =>
        subst h2
        split
        · exact wfFrom_mono (by omega) h.2
        · next h3 => simp [wfFrom, ha, h3, h.2]
      · next h1 h2 =>
        simp only [wfFrom, Bool.and_eq_true, decide_eq_true_eq]
        exact ⟨h.1, wfFrom_write v h.2 (by omega)⟩

/-- A write keeps the canonical form. -/
theorem wf_write {m : Memory} {a : Nat} {v : Byte} (h : wf m = true) : wf (write m a v) = true :=
  wfFrom_write v h (Nat.zero_le a)

theorem within_write : ∀ {m : Memory} {n a : Nat} (v : Byte), within n m = true → a < n → within n (write m a v) = true
  | [], n, a, v, _, ha => by
    unfold write; split <;> simp_all [within]
  | (k, b) :: m, n, a, v, h, ha => by
    simp only [within, List.all_cons, Bool.and_eq_true, decide_eq_true_eq] at h
    have hm : within n m = true := h.2
    have ih := within_write v hm ha
    unfold write
    split
    · split
      · simpa [within] using h
      · simp only [within, List.all_cons, Bool.and_eq_true, decide_eq_true_eq]
        exact ⟨ha, h⟩
    · split
      · split
        · exact hm
        · simp only [within, List.all_cons, Bool.and_eq_true, decide_eq_true_eq]
          exact ⟨ha, h.2⟩
      · simp only [within, List.all_cons, Bool.and_eq_true, decide_eq_true_eq]
        exact ⟨h.1, ih⟩

theorem read_writeFrom : ∀ {m : Memory} {lo : Nat} (a b : Nat) (v : Byte), wfFrom lo m = true →
    read (write m a v) b = if b = a then v else read m b
  | [], lo, a, b, v, _ => by
    unfold write; split <;> simp_all [read]
  | (k, c) :: m, lo, a, b, v, h => by
    simp only [wfFrom, Bool.and_eq_true, decide_eq_true_eq] at h
    have ih := read_writeFrom a b v h.2
    unfold write
    split
    · next hak =>
      split
      · next hv =>
        subst hv
        by_cases hb : b = a
        · subst hb; have : b ≠ k := by omega
          simp [read, this, hak]
        · simp [hb]
      · by_cases hb : b = a
        · simp [hb, read]
        · by_cases hba : b < a
          · have h1 : b ≠ k := by omega
            have h2 : b < k := by omega
            simp [read, hb, hba, h1, h2]
          · simp [read, hb, hba]
    · split
      · next h1 h2 =>
        subst h2
        split
        · next hv =>
          subst hv
          by_cases hb : b = a
          · simp [hb, read_below h.2 (Nat.lt_succ_self a)]
          · by_cases hba : b < a
            · simp [read, hb, hba, read_below h.2 (Nat.lt_succ_of_lt hba)]
            · simp [read, hb, hba]
        · by_cases hb : b = a <;> simp [read, hb]
      · next h1 h2 =>
        by_cases hb : b = k
        · subst hb
          have : b ≠ a := fun e => h2 e.symm
          simp [read, this]
        · by_cases hbk : b < k
          · have : b ≠ a := by omega
            simp [read, hb, hbk, this]
          · simp [read, hb, hbk, ih]

/-- A read after a write. -/
theorem read_write {m : Memory} {a b : Nat} {v : Byte} (h : wf m = true) :
    read (write m a v) b = if b = a then v else read m b := read_writeFrom a b v h

theorem read_outside : ∀ {m : Memory} {n a : Nat}, within n m = true → n ≤ a → read m a = unlisted
  | [], _, _, _, _ => rfl
  | (k, v) :: m, n, a, h, ha => by
    simp only [within, List.all_cons, Bool.and_eq_true, decide_eq_true_eq] at h
    have h1 : a ≠ k := by omega
    have h2 : ¬ a < k := by omega
    simp only [read, h1, h2, if_false]
    exact read_outside (by simpa [within] using h.2) ha

theorem ext_from : ∀ {m m' : Memory} {lo : Nat}, wfFrom lo m = true → wfFrom lo m' = true → (∀ a, read m a = read m' a) → m = m'
  | [], [], _, _, _, _ => rfl
  | [], (k, v) :: m', lo, _, h', e => by
    simp only [wfFrom, Bool.and_eq_true, decide_eq_true_eq] at h'
    have := e k; simp [read] at this; exact absurd this.symm h'.1.2
  | (k, v) :: m, [], lo, h, _, e => by
    simp only [wfFrom, Bool.and_eq_true, decide_eq_true_eq] at h
    have := e k; simp [read] at this; exact absurd this h.1.2
  | (k, v) :: m, (k', v') :: m', lo, h, h', e => by
    simp only [wfFrom, Bool.and_eq_true, decide_eq_true_eq] at h h'
    rcases Nat.lt_trichotomy k k' with hlt | heq | hgt
    · have := e k; have h1 : k ≠ k' := by omega
      simp [read, h1, hlt] at this; exact absurd this h.1.2
    · subst heq
      have hv : v = v' := by simpa [read] using e k
      subst hv
      refine congrArg _ (ext_from h.2 h'.2 fun a => ?_)
      by_cases hak : a ≤ k
      · rw [read_below h.2 (by omega), read_below h'.2 (by omega)]
      · have h1 : a ≠ k := by omega
        have h2 : ¬ a < k := by omega
        simpa [read, h1, h2] using e a
    · have := e k'; have h1 : k' ≠ k := by omega
      simp [read, h1, hgt] at this; exact absurd this.symm h'.1.2

/-- Two memories in canonical form that read the same are the same data. -/
theorem ext {m m' : Memory} (h : wf m = true) (h' : wf m' = true) (e : ∀ a, read m a = read m' a) : m = m' := ext_from h h' e

theorem wfFrom_ofBytesAt : ∀ (bs : List Byte) (a : Nat), wfFrom a (ofBytesAt a bs) = true
  | [], _ => rfl
  | v :: bs, a => by
    unfold ofBytesAt
    split
    · exact wfFrom_mono (Nat.le_succ a) (wfFrom_ofBytesAt bs (a + 1))
    · next h => simp [wfFrom, h, wfFrom_ofBytesAt bs (a + 1)]

/-- An image in a memory is in canonical form. -/
theorem wf_ofBytes (bs : List Byte) : wf (ofBytes bs) = true := wfFrom_ofBytesAt bs 0

theorem within_ofBytesAt : ∀ (bs : List Byte) (a n : Nat), a + bs.length ≤ n → within n (ofBytesAt a bs) = true
  | [], _, _, _ => rfl
  | v :: bs, a, n, h => by
    simp only [List.length_cons] at h
    have ih := within_ofBytesAt bs (a + 1) n (by omega)
    unfold ofBytesAt
    split
    · exact ih
    · simp only [within, List.all_cons, Bool.and_eq_true, decide_eq_true_eq] at ih ⊢
      exact ⟨by omega, ih⟩

theorem read_ofBytesAt : ∀ (bs : List Byte) (a k : Nat), read (ofBytesAt a bs) (a + k) = bs.getD k unlisted
  | [], _, _ => by simp [ofBytesAt, read]
  | v :: bs, a, 0 => by
    unfold ofBytesAt
    split
    · next h => simp [read_below (wfFrom_ofBytesAt bs (a + 1)) (Nat.lt_succ_self a), h]
    · simp [read]
  | v :: bs, a, k + 1 => by
    have ih := read_ofBytesAt bs (a + 1) k
    have e : a + 1 + k = a + (k + 1) := by omega
    rw [e] at ih
    have h1 : a + (k + 1) ≠ a := by omega
    have h2 : ¬ a + (k + 1) < a := by omega
    unfold ofBytesAt
    split
    · simpa using ih
    · simp only [read, h1, h2, if_false]; simpa using ih

/-- The byte of an image at an offset. -/
theorem read_ofBytes (bs : List Byte) (k : Nat) : read (ofBytes bs) k = bs.getD k unlisted := by
  simpa [ofBytes] using read_ofBytesAt bs 0 k

end Memory

namespace Frame

theorem wfBelow_mono {hi hi' : Nat} (h : hi ≤ hi') : ∀ {f : Frame}, wfBelow hi f = true → wfBelow hi' f = true
  | [], _ => rfl
  | (k, c) :: f, hf => by
    simp only [wfBelow, Bool.and_eq_true, decide_eq_true_eq] at hf ⊢
    exact ⟨by omega, hf.2⟩

theorem wfBelow_write : ∀ {f : Frame} {hi a : Nat} (v : BitVec 6), wfBelow hi f = true → a < hi → wfBelow hi (write f a v) = true
  | [], hi, a, v, _, ha => by simp [write, wfBelow, ha]
  | (k, c) :: f, hi, a, v, h, ha => by
    simp only [wfBelow, Bool.and_eq_true, decide_eq_true_eq] at h
    unfold write
    split
    · next hk => simp [wfBelow, ha, hk, h.2]
    · split
      · next h1 h2 => subst h2; simp [wfBelow, ha, h.2]
      · next h1 h2 =>
        simp only [wfBelow, Bool.and_eq_true, decide_eq_true_eq]
        exact ⟨h.1, wfBelow_write v h.2 (by omega)⟩

/-- A cell written inside the picture keeps the canonical form. -/
theorem wf_write {f : Frame} {a : Nat} {v : BitVec 6} (h : wf f = true) (ha : a < cells) : wf (write f a v) = true :=
  wfBelow_write v h ha

theorem read_above : ∀ {f : Frame} {hi a : Nat}, wfBelow hi f = true → hi ≤ a → read f a = none
  | [], _, _, _, _ => rfl
  | (k, c) :: f, hi, a, h, ha => by
    simp only [wfBelow, Bool.and_eq_true, decide_eq_true_eq] at h
    have h1 : a ≠ k := by omega
    have h2 : k < a := by omega
    simp [read, h1, h2]

/-- A cell read after a cell is written. -/
theorem read_write : ∀ {f : Frame} {hi : Nat} (a b : Nat) (v : BitVec 6), wfBelow hi f = true →
    read (write f a v) b = if b = a then some v else read f b
  | [], hi, a, b, v, _ => by
    simp only [write, read]
    split <;> simp
  | (k, c) :: f, hi, a, b, v, h => by
    simp only [wfBelow, Bool.and_eq_true, decide_eq_true_eq] at h
    have ih := read_write a b v h.2
    unfold write
    split
    · next hk =>
      by_cases hb : b = a
      · simp [hb, read]
      · by_cases hab : a < b
        · have h1 : b ≠ k := by omega
          have h2 : k < b := by omega
          simp [read, hb, hab, h1, h2]
        · simp [read, hb, hab]
    · split
      · next h1 h2 => subst h2; by_cases hb : b = a <;> simp [read, hb]
      · next h1 h2 =>
        by_cases hb : b = k
        · subst hb
          have : b ≠ a := fun e => h2 e.symm
          simp [read, this]
        · by_cases hkb : k < b
          · have : b ≠ a := by omega
            simp [read, hb, hkb, this]
          · simp [read, hb, hkb, ih]

end Frame

end Sys2Proof
end

