-- ==== Sys2Proof/Laws/Bus.lean ====
section
/-! SUPPORT. What the bus does: the fields each operation keeps, reads by region, and one lemma that says everything a write below
`$8000` does. -/

namespace Sys2Proof.Machine

variable (s : State)

/-! ### Fields a read keeps -/

@[simp] theorem afterRead_a (a : Addr) : (afterRead s a).a = s.a := by
  unfold afterRead; split <;> (try split) <;> (try split) <;> rfl
@[simp] theorem afterRead_x (a : Addr) : (afterRead s a).x = s.x := by
  unfold afterRead; split <;> (try split) <;> (try split) <;> rfl
@[simp] theorem afterRead_y (a : Addr) : (afterRead s a).y = s.y := by
  unfold afterRead; split <;> (try split) <;> (try split) <;> rfl
@[simp] theorem afterRead_sp (a : Addr) : (afterRead s a).sp = s.sp := by
  unfold afterRead; split <;> (try split) <;> (try split) <;> rfl
@[simp] theorem afterRead_p (a : Addr) : (afterRead s a).p = s.p := by
  unfold afterRead; split <;> (try split) <;> (try split) <;> rfl
@[simp] theorem afterRead_pc (a : Addr) : (afterRead s a).pc = s.pc := by
  unfold afterRead; split <;> (try split) <;> (try split) <;> rfl
@[simp] theorem afterRead_cycles (a : Addr) : (afterRead s a).cycles = s.cycles := by
  unfold afterRead; split <;> (try split) <;> (try split) <;> rfl
@[simp] theorem afterRead_run (a : Addr) : (afterRead s a).run = s.run := by
  unfold afterRead; split <;> (try split) <;> (try split) <;> rfl
@[simp] theorem afterRead_ram (a : Addr) : (afterRead s a).ram = s.ram := by
  unfold afterRead; split <;> (try split) <;> (try split) <;> rfl
@[simp] theorem afterRead_busCycles (a : Addr) : (afterRead s a).busCycles = s.busCycles := by
  unfold afterRead; split <;> (try split) <;> (try split) <;> rfl
@[simp] theorem afterRead_prgRom (a : Addr) : (afterRead s a).prgRom = s.prgRom := by
  unfold afterRead; split <;> (try split) <;> (try split) <;> rfl
@[simp] theorem afterRead_prgSize (a : Addr) : (afterRead s a).prgSize = s.prgSize := by
  unfold afterRead; split <;> (try split) <;> (try split) <;> rfl
@[simp] theorem afterRead_params (a : Addr) : (afterRead s a).params = s.params := by
  unfold afterRead; split <;> (try split) <;> (try split) <;> rfl
@[simp] theorem afterRead_hostInputs (a : Addr) : (afterRead s a).hostInputs = s.hostInputs := by
  unfold afterRead; split <;> (try split) <;> (try split) <;> rfl
@[simp] theorem afterRead_callbacks (a : Addr) : (afterRead s a).callbacks = s.callbacks := by
  unfold afterRead; split <;> (try split) <;> (try split) <;> rfl

/-- A read at an address that has no side effect changes nothing (R86). -/
theorem afterRead_of_no_effect {s : State} {a : Addr} (h : sideEffectRead a = false) : afterRead s a = s := by
  unfold sideEffectRead at h
  unfold afterRead
  split
  · rfl
  · next h1 =>
    split
    · next h2 =>
      have h0 : 0x2000#16 ≤ a := by bv_omega
      simp only [h0, h2, decide_true, Bool.true_and, Bool.or_eq_false_iff] at h
      have h3 : ppuRegister a ≠ 2 := by simpa using h.1.1
      have h4 : ppuRegister a ≠ 7 := by simpa using h.1.2
      simp only [ppuRegAfterRead]
      rw [if_neg h3, if_neg h4]
    · split
      · next h3 => simp [h3] at h
      · rfl

/-! ### Reads -/

/-- Reads depend on the memories, the devices and the parameters only. -/
theorem peek_congr {s t : State} (h1 : t.ram = s.ram) (h2 : t.prgRom = s.prgRom) (h3 : t.prgSize = s.prgSize) (h4 : t.ppu = s.ppu)
    (h5 : t.joypad = s.joypad) (h6 : t.params = s.params) (a : Addr) : peek t a = peek s a := by
  simp only [peek, h1, h2, h3, h4, h5, h6]

/-- The same for addresses outside the PPU window. -/
theorem peek_congr_outside {s t : State} (h1 : t.ram = s.ram) (h2 : t.prgRom = s.prgRom) (h3 : t.prgSize = s.prgSize)
    (h5 : t.joypad = s.joypad) (h6 : t.params = s.params) {a : Addr} (h : ¬ inPpuWindow a) : peek t a = peek s a := by
  unfold peek
  simp only [h1, h2, h3, h5, h6]
  split
  · rfl
  · next h7 =>
    have h8 : ¬ a ≤ 0x3FFF#16 := fun h9 => h ⟨by bv_omega, h9⟩
    simp only [h8, if_false]

/-- A read of RAM (R75). -/
theorem peek_ram {s : State} {a : Addr} (h : a ≤ 0x1FFF#16) : peek s a = s.ram.read (ramCell a) := by
  simp only [peek, h, if_true]

/-- A read of PRG ROM (R79). -/
theorem peek_rom {s : State} {a : Addr} (h : 0x8000#16 ≤ a) : peek s a = s.prgRom.read (prgOffset s.prgSize a) := by
  have h1 : ¬ a ≤ 0x1FFF#16 := by bv_omega
  have h2 : ¬ a ≤ 0x3FFF#16 := by bv_omega
  have h3 : a ≠ 0x4016#16 := by bv_omega
  have h4 : a ≠ 0x4017#16 := by bv_omega
  have h5 : ¬ a ≤ 0x4017#16 := by bv_omega
  have h6 : ¬ a ≤ 0x7FFF#16 := by bv_omega
  simp only [peek, h1, h2, h3, h4, h5, h6, if_false]

/-- A read after a RAM write (R75). -/
theorem peek_writeRam {s : State} (hw : s.ram.wf = true) {e : Addr} (he : e ≤ 0x1FFF#16) (v : Byte) (a : Addr) :
    (sameRamCell a e → peek (writeRam s e v) a = v) ∧ (¬ sameRamCell a e → peek (writeRam s e v) a = peek s a) := by
  have key : a ≤ 0x1FFF#16 → peek (writeRam s e v) a = if ramCell a = ramCell e then v else peek s a := by
    intro ha
    rw [peek_ram ha, peek_ram ha, writeRam_ram, Memory.read_write hw]
  constructor
  · intro h
    rw [key h.1, if_pos]
    exact h.2.2
  · intro h
    by_cases ha : a ≤ 0x1FFF#16
    · rw [key ha, if_neg]
      exact fun hc => h ⟨ha, he, hc⟩
    · unfold peek
      simp only [ha, if_false, writeRam_ppu, writeRam_joypad, writeRam_params, writeRam_prgRom, writeRam_prgSize]

/-! ### OAM DMA -/

theorem afterBlock_same : ∀ (n : Nat) (s : State) (a : Addr),
    (afterBlock n s a).registers = s.registers ∧ (afterBlock n s a).p = s.p ∧ (afterBlock n s a).pc = s.pc ∧
    (afterBlock n s a).cycles = s.cycles ∧ (afterBlock n s a).run = s.run ∧ (afterBlock n s a).ram = s.ram ∧
    SameHost s (afterBlock n s a)
  | 0, s, a => ⟨rfl, rfl, rfl, rfl, rfl, rfl, rfl, rfl, rfl, rfl, rfl, rfl⟩
  | n + 1, s, a => by
    have ih := afterBlock_same n (afterRead s a) (a + 1)
    simp only [afterBlock]
    simpa [SameHost] using ih

/-- OAM DMA keeps everything but the PPU and the joypad (R436). -/
theorem oamDma_same (v : Byte) :
    (oamDma s v).registers = s.registers ∧ (oamDma s v).p = s.p ∧ (oamDma s v).pc = s.pc ∧ (oamDma s v).cycles = s.cycles ∧
    (oamDma s v).run = s.run ∧ (oamDma s v).ram = s.ram ∧ SameHost s (oamDma s v) := by
  unfold oamDma
  generalize Config.dmaBytes = n
  exact afterBlock_same n s (wordOf v 0)

/-! ### Writes -/

/-- A write at or above `$8000` is a fault (R81). -/
theorem busWrite_rom {s : State} {e : Addr} (h : 0x8000#16 ≤ e) (v : Byte) : busWrite s e v = .fault (.romWrite e v) := by
  have h1 : ¬ e ≤ 0x1FFF#16 := by bv_omega
  have h2 : ¬ e ≤ 0x3FFF#16 := by bv_omega
  have h3 : e ≠ 0x4014#16 := by bv_omega
  have h4 : e ≠ 0x4016#16 := by bv_omega
  have h6 : ¬ e ≤ 0x7FFF#16 := by bv_omega
  simp only [busWrite, h1, h2, h3, h4, h6, if_false]

/-- Everything a write below `$8000` does (R421): it goes on, stores in its region, and changes nothing of the CPU. -/
theorem busWrite_below {s : State} {e : Addr} (h : e < 0x8000#16) (v : Byte) :
    ∃ t, busWrite s e v = .next t ∧ t.registers = s.registers ∧ t.p = s.p ∧ t.pc = s.pc ∧ t.cycles = s.cycles ∧ t.run = s.run ∧
      SameHost s t ∧ (s.ram.wf = true → Stored s t e v) := by
  unfold busWrite
  split
  · next h1 =>
    refine ⟨_, rfl, rfl, rfl, rfl, rfl, rfl, ⟨rfl, rfl, rfl, rfl, rfl, rfl⟩, fun hw => ⟨fun _ => ?_, ?_, ?_, ?_, ?_⟩⟩
    · exact ⟨fun a ha => (peek_writeRam hw h1 v a).1 ha, fun a ha => (peek_writeRam hw h1 v a).2 ha, rfl, rfl⟩
    · intro h2; exact absurd h2.1 (by bv_omega)
    · intro h2; exact absurd h2 (by bv_omega)
    · intro h2; exact absurd h2 (by bv_omega)
    · intro h2; exact absurd h2 (by bv_omega)
  · next h1 =>
    split
    · next h2 =>
      refine ⟨_, rfl, rfl, rfl, rfl, rfl, rfl, ⟨rfl, rfl, rfl, rfl, rfl, rfl⟩, fun hw => ⟨?_, fun _ => ?_, ?_, ?_, ?_⟩⟩
      · intro h3; exact absurd h3 h1
      · refine ⟨rfl, rfl, fun a ha => ?_⟩
        apply peek_congr_outside <;> first | rfl | exact ha
      · intro h3; exact absurd h3 (by bv_omega)
      · intro h3; exact absurd h3 (by bv_omega)
      · intro h3; exact absurd h3 (by bv_omega)
    · next h2 =>
      have hwin : ¬ inPpuWindow e := fun hc => h2 hc.2
      split
      · next h3 =>
        obtain ⟨r1, r2, r3, r4, r5, r6, r7⟩ := oamDma_same s v
        refine ⟨_, rfl, r1, r2, r3, r4, r5, r7, fun hw => ⟨?_, ?_, fun _ => ⟨rfl, rfl, ?_⟩, ?_, ?_⟩⟩
        · intro h4; exact absurd h4 h1
        · intro h4; exact absurd h4 hwin
        · intro a ha hj
          unfold peek
          simp only [r6, r7.2.1, r7.2.2.1, r7.2.2.2.1, hj, if_false]
          split
          · rfl
          · next h7 =>
            have h8 : ¬ a ≤ 0x3FFF#16 := fun h9 => ha ⟨by bv_omega, h9⟩
            simp only [h8, if_false]
        · intro h4; exact absurd h4 (by bv_omega)
        · intro _ _ h4; exact absurd h3 h4
      · next h3 =>
        split
        · next h4 =>
          refine ⟨_, rfl, rfl, rfl, rfl, rfl, rfl, ⟨rfl, rfl, rfl, rfl, rfl, rfl⟩, fun hw => ⟨?_, ?_, ?_, fun _ => ⟨rfl, rfl, ?_⟩, ?_⟩⟩
          · intro h5; exact absurd h5 h1
          · intro h5; exact absurd h5 hwin
          · intro h5; exact absurd h5 h3
          · intro a ha
            simp only [peek, ha, if_false]
          · intro _ _ _ h5; exact absurd h4 h5
        · next h4 =>
          have h5 : e ≤ 0x7FFF#16 := by bv_omega
          simp only [h5, if_true]
          refine ⟨_, rfl, rfl, rfl, rfl, rfl, rfl, ⟨rfl, rfl, rfl, rfl, rfl, rfl⟩, fun hw => ⟨?_, ?_, ?_, ?_, fun _ _ _ _ => ⟨fun _ => rfl, rfl, rfl, rfl⟩⟩⟩
          · intro h6; exact absurd h6 h1
          · intro h6; exact absurd h6 hwin
          · intro h6; exact absurd h6 h3
          · intro h6; exact absurd h6 h4

/-! ### The synchroniser -/

@[simp] theorem hostCallback_a : (hostCallback s).a = s.a := by unfold hostCallback; split <;> rfl
@[simp] theorem hostCallback_x : (hostCallback s).x = s.x := by unfold hostCallback; split <;> rfl
@[simp] theorem hostCallback_y : (hostCallback s).y = s.y := by unfold hostCallback; split <;> rfl
@[simp] theorem hostCallback_sp : (hostCallback s).sp = s.sp := by unfold hostCallback; split <;> rfl
@[simp] theorem hostCallback_p : (hostCallback s).p = s.p := by unfold hostCallback; split <;> rfl
@[simp] theorem hostCallback_pc : (hostCallback s).pc = s.pc := by unfold hostCallback; split <;> rfl
@[simp] theorem hostCallback_cycles : (hostCallback s).cycles = s.cycles := by unfold hostCallback; split <;> rfl
@[simp] theorem hostCallback_run : (hostCallback s).run = s.run := by unfold hostCallback; split <;> rfl
@[simp] theorem hostCallback_ram : (hostCallback s).ram = s.ram := by unfold hostCallback; split <;> rfl
@[simp] theorem hostCallback_busCycles : (hostCallback s).busCycles = s.busCycles := by unfold hostCallback; split <;> rfl
@[simp] theorem hostCallback_prgRom : (hostCallback s).prgRom = s.prgRom := by unfold hostCallback; split <;> rfl
@[simp] theorem hostCallback_prgSize : (hostCallback s).prgSize = s.prgSize := by unfold hostCallback; split <;> rfl
@[simp] theorem hostCallback_ppu : (hostCallback s).ppu = s.ppu := by unfold hostCallback; split <;> rfl
@[simp] theorem hostCallback_params : (hostCallback s).params = s.params := by unfold hostCallback; split <;> rfl
@[simp] theorem hostCallback_strobe : (hostCallback s).joypad.strobe = s.joypad.strobe := by unfold hostCallback; split <;> rfl
@[simp] theorem hostCallback_index : (hostCallback s).joypad.index = s.joypad.index := by unfold hostCallback; split <;> rfl
@[simp] theorem hostCallback_callbacks : (hostCallback s).callbacks = s.callbacks + 1 := by unfold hostCallback; split <;> rfl

@[simp] theorem notifyHost_a (b : Bool) : (notifyHost b s).a = s.a := by cases b <;> simp [notifyHost]
@[simp] theorem notifyHost_x (b : Bool) : (notifyHost b s).x = s.x := by cases b <;> simp [notifyHost]
@[simp] theorem notifyHost_y (b : Bool) : (notifyHost b s).y = s.y := by cases b <;> simp [notifyHost]
@[simp] theorem notifyHost_sp (b : Bool) : (notifyHost b s).sp = s.sp := by cases b <;> simp [notifyHost]
@[simp] theorem notifyHost_p (b : Bool) : (notifyHost b s).p = s.p := by cases b <;> simp [notifyHost]
@[simp] theorem notifyHost_pc (b : Bool) : (notifyHost b s).pc = s.pc := by cases b <;> simp [notifyHost]
@[simp] theorem notifyHost_cycles (b : Bool) : (notifyHost b s).cycles = s.cycles := by cases b <;> simp [notifyHost]
@[simp] theorem notifyHost_run (b : Bool) : (notifyHost b s).run = s.run := by cases b <;> simp [notifyHost]
@[simp] theorem notifyHost_ram (b : Bool) : (notifyHost b s).ram = s.ram := by cases b <;> simp [notifyHost]
@[simp] theorem notifyHost_busCycles (b : Bool) : (notifyHost b s).busCycles = s.busCycles := by cases b <;> simp [notifyHost]
@[simp] theorem notifyHost_prgRom (b : Bool) : (notifyHost b s).prgRom = s.prgRom := by cases b <;> simp [notifyHost]
@[simp] theorem notifyHost_prgSize (b : Bool) : (notifyHost b s).prgSize = s.prgSize := by cases b <;> simp [notifyHost]
@[simp] theorem notifyHost_ppu (b : Bool) : (notifyHost b s).ppu = s.ppu := by cases b <;> simp [notifyHost]
@[simp] theorem notifyHost_params (b : Bool) : (notifyHost b s).params = s.params := by cases b <;> simp [notifyHost]
@[simp] theorem notifyHost_strobe (b : Bool) : (notifyHost b s).joypad.strobe = s.joypad.strobe := by cases b <;> simp [notifyHost]
@[simp] theorem notifyHost_index (b : Bool) : (notifyHost b s).joypad.index = s.joypad.index := by cases b <;> simp [notifyHost]

@[simp] theorem busTick_a (n : Nat) : (busTick n s).a = s.a := by
  simp [busTick, Config.dotsPerCycle]
@[simp] theorem busTick_x (n : Nat) : (busTick n s).x = s.x := by
  simp [busTick, Config.dotsPerCycle]
@[simp] theorem busTick_y (n : Nat) : (busTick n s).y = s.y := by
  simp [busTick, Config.dotsPerCycle]
@[simp] theorem busTick_sp (n : Nat) : (busTick n s).sp = s.sp := by
  simp [busTick, Config.dotsPerCycle]
@[simp] theorem busTick_p (n : Nat) : (busTick n s).p = s.p := by
  simp [busTick, Config.dotsPerCycle]
@[simp] theorem busTick_pc (n : Nat) : (busTick n s).pc = s.pc := by
  simp [busTick, Config.dotsPerCycle]
@[simp] theorem busTick_cycles (n : Nat) : (busTick n s).cycles = s.cycles := by
  simp [busTick, Config.dotsPerCycle]
@[simp] theorem busTick_run (n : Nat) : (busTick n s).run = s.run := by
  simp [busTick, Config.dotsPerCycle]
@[simp] theorem busTick_ram (n : Nat) : (busTick n s).ram = s.ram := by
  simp [busTick, Config.dotsPerCycle]
@[simp] theorem busTick_busCycles (n : Nat) : (busTick n s).busCycles = s.busCycles + n := by
  simp [busTick, Config.dotsPerCycle]
@[simp] theorem busTick_prgRom (n : Nat) : (busTick n s).prgRom = s.prgRom := by
  simp [busTick, Config.dotsPerCycle]
@[simp] theorem busTick_prgSize (n : Nat) : (busTick n s).prgSize = s.prgSize := by
  simp [busTick, Config.dotsPerCycle]
@[simp] theorem busTick_ppu (n : Nat) : (busTick n s).ppu = ppuTick s.params.skipDot0 (3 * n) s.ppu := by
  simp [busTick, Config.dotsPerCycle]
@[simp] theorem busTick_params (n : Nat) : (busTick n s).params = s.params := by
  simp [busTick, Config.dotsPerCycle]
@[simp] theorem busTick_strobe (n : Nat) : (busTick n s).joypad.strobe = s.joypad.strobe := by
  simp [busTick, Config.dotsPerCycle]
@[simp] theorem busTick_index (n : Nat) : (busTick n s).joypad.index = s.joypad.index := by
  simp [busTick, Config.dotsPerCycle]

end Sys2Proof.Machine
end

