-- ==== Sys2Proof/Laws/Decode.lean ====
section
/-! SUPPORT. Words and their bytes, and the rows of the opcode table: each row's instruction is well formed and its opcode byte is the
row's. -/

namespace Sys2Proof

/-- A word is made of its bytes (R85). -/
@[simp] theorem wordOf_bytes (a : Addr) : wordOf (hiByte a) (loByte a) = a := by
  unfold wordOf hiByte loByte
  apply BitVec.eq_of_toNat_eq
  simp only [BitVec.toNat_append, BitVec.extractLsb'_toNat, Nat.shiftRight_zero]
  rw [Nat.shiftLeft_eq, ← Nat.shiftLeft_eq, ← Nat.shiftLeft_add_eq_or_of_lt (by omega), Nat.shiftLeft_eq, Nat.shiftRight_eq_div_pow]
  have := a.isLt
  omega

/-- A word as a number (R10). -/
theorem wordOf_toNat (hi lo : Byte) : (wordOf hi lo).toNat = 256 * hi.toNat + lo.toNat := by
  unfold wordOf
  rw [BitVec.toNat_append, ← Nat.shiftLeft_add_eq_or_of_lt lo.isLt, Nat.shiftLeft_eq]
  omega

@[simp] theorem hiByte_wordOf (hi lo : Byte) : hiByte (wordOf hi lo) = hi := by
  apply BitVec.eq_of_toNat_eq
  unfold hiByte
  rw [BitVec.extractLsb'_toNat, wordOf_toNat, Nat.shiftRight_eq_div_pow]
  have := hi.isLt; have := lo.isLt
  omega

@[simp] theorem loByte_wordOf (hi lo : Byte) : loByte (wordOf hi lo) = lo := by
  apply BitVec.eq_of_toNat_eq
  unfold loByte
  rw [BitVec.extractLsb'_toNat, wordOf_toNat, Nat.shiftRight_zero]
  have := hi.isLt; have := lo.isLt
  omega

/-- A page is crossed when the high bytes differ (R172). -/
theorem pageCrossed_eq (a b : Addr) : pageCrossed a b = decide (a.toNat / 256 ≠ b.toNat / 256) := by
  unfold pageCrossed
  have h : ∀ v : Addr, (v &&& 0xFF00#16).toNat = 256 * (v.toNat / 256) := by
    intro v
    have e : v &&& 0xFF00#16 = (v >>> 8) <<< 8 := by
      ext i hi
      simp only [BitVec.getElem_and, BitVec.getElem_shiftLeft]
      have : (0xFF00#16)[i] = decide (8 ≤ i) := by revert i; decide
      rw [this]
      by_cases h8 : 8 ≤ i <;> simp [h8]
      have h9 : ¬ i < 8 := by omega
      simp [h9, BitVec.getLsbD_eq_getElem hi]
    rw [e]; simp [Nat.shiftLeft_eq, Nat.shiftRight_eq_div_pow]
    have := v.isLt; omega
  have e : (a &&& 0xFF00#16) = (b &&& 0xFF00#16) ↔ a.toNat / 256 = b.toNat / 256 := by
    rw [← BitVec.toNat_inj, h, h]; omega
  rw [Bool.eq_iff_iff]; simp only [bne_iff_ne, ne_eq, e, decide_eq_true_eq]

/-- The instruction of a row is well formed and has the row's opcode byte and as many operand bytes as its shape. -/
def Row.Good (r : Row) : Prop :=
  match r.shape with
  | .implied i => i.wellFormed = true ∧ i.opcode = some r.code ∧ i.operandBytes = []
  | .byte make => ∀ b, (make b).wellFormed = true ∧ (make b).opcode = some r.code ∧ (make b).operandBytes = [b]
  | .word make => ∀ a, (make a).wellFormed = true ∧ (make a).opcode = some r.code ∧ (make a).operandBytes = wordBytes a

theorem rows0_good : ∀ r ∈ opcodeRows0, r.Good := by
  simp only [opcodeRows0, List.forall_mem_cons]
  refine ⟨?_, ?_, ?_, ?_, ?_, ?_, ?_, ?_, ?_, ?_, ?_, ?_, ?_, ?_, ?_, ?_, fun _ h => absurd h List.not_mem_nil⟩ <;> first | exact ⟨rfl, rfl, rfl⟩ | exact fun _ => ⟨rfl, rfl, rfl⟩

theorem rows1_good : ∀ r ∈ opcodeRows1, r.Good := by
  simp only [opcodeRows1, List.forall_mem_cons]
  refine ⟨?_, ?_, ?_, ?_, ?_, ?_, ?_, ?_, ?_, ?_, ?_, ?_, ?_, ?_, ?_, ?_, fun _ h => absurd h List.not_mem_nil⟩ <;> first | exact ⟨rfl, rfl, rfl⟩ | exact fun _ => ⟨rfl, rfl, rfl⟩

theorem rows2_good : ∀ r ∈ opcodeRows2, r.Good := by
  simp only [opcodeRows2, List.forall_mem_cons]
  refine ⟨?_, ?_, ?_, ?_, ?_, ?_, ?_, ?_, ?_, ?_, ?_, ?_, ?_, ?_, ?_, ?_, fun _ h => absurd h List.not_mem_nil⟩ <;> first | exact ⟨rfl, rfl, rfl⟩ | exact fun _ => ⟨rfl, rfl, rfl⟩

theorem rows3_good : ∀ r ∈ opcodeRows3, r.Good := by
  simp only [opcodeRows3, List.forall_mem_cons]
  refine ⟨?_, ?_, ?_, ?_, ?_, ?_, ?_, ?_, ?_, ?_, ?_, ?_, ?_, ?_, ?_, ?_, fun _ h => absurd h List.not_mem_nil⟩ <;> first | exact ⟨rfl, rfl, rfl⟩ | exact fun _ => ⟨rfl, rfl, rfl⟩

theorem rows4_good : ∀ r ∈ opcodeRows4, r.Good := by
  simp only [opcodeRows4, List.forall_mem_cons]
  refine ⟨?_, ?_, ?_, ?_, ?_, ?_, ?_, ?_, ?_, ?_, ?_, ?_, ?_, ?_, ?_, ?_, fun _ h => absurd h List.not_mem_nil⟩ <;> first | exact ⟨rfl, rfl, rfl⟩ | exact fun _ => ⟨rfl, rfl, rfl⟩

theorem rows5_good : ∀ r ∈ opcodeRows5, r.Good := by
  simp only [opcodeRows5, List.forall_mem_cons]
  refine ⟨?_, ?_, ?_, ?_, ?_, ?_, ?_, ?_, ?_, ?_, ?_, ?_, ?_, ?_, ?_, ?_, fun _ h => absurd h List.not_mem_nil⟩ <;> first | exact ⟨rfl, rfl, rfl⟩ | exact fun _ => ⟨rfl, rfl, rfl⟩

theorem rows6_good : ∀ r ∈ opcodeRows6, r.Good := by
  simp only [opcodeRows6, List.forall_mem_cons]
  refine ⟨?_, ?_, ?_, ?_, ?_, ?_, ?_, ?_, ?_, ?_, ?_, ?_, ?_, ?_, ?_, ?_, fun _ h => absurd h List.not_mem_nil⟩ <;> first | exact ⟨rfl, rfl, rfl⟩ | exact fun _ => ⟨rfl, rfl, rfl⟩

theorem rows7_good : ∀ r ∈ opcodeRows7, r.Good := by
  simp only [opcodeRows7, List.forall_mem_cons]
  refine ⟨?_, ?_, ?_, ?_, ?_, ?_, ?_, ?_, ?_, ?_, ?_, ?_, ?_, ?_, ?_, ?_, fun _ h => absurd h List.not_mem_nil⟩ <;> first | exact ⟨rfl, rfl, rfl⟩ | exact fun _ => ⟨rfl, rfl, rfl⟩

theorem rows8_good : ∀ r ∈ opcodeRows8, r.Good := by
  simp only [opcodeRows8, List.forall_mem_cons]
  refine ⟨?_, ?_, ?_, ?_, ?_, ?_, ?_, ?_, ?_, ?_, ?_, ?_, ?_, ?_, ?_, ?_, fun _ h => absurd h List.not_mem_nil⟩ <;> first | exact ⟨rfl, rfl, rfl⟩ | exact fun _ => ⟨rfl, rfl, rfl⟩

theorem rows9_good : ∀ r ∈ opcodeRows9, r.Good := by
  simp only [opcodeRows9, List.forall_mem_cons]
  refine ⟨?_, ?_, ?_, ?_, ?_, ?_, ?_, ?_, ?_, ?_, ?_, ?_, ?_, ?_, ?_, ?_, fun _ h => absurd h List.not_mem_nil⟩ <;> first | exact ⟨rfl, rfl, rfl⟩ | exact fun _ => ⟨rfl, rfl, rfl⟩

theorem rowsA_good : ∀ r ∈ opcodeRowsA, r.Good := by
  simp only [opcodeRowsA, List.forall_mem_cons]
  refine ⟨?_, ?_, ?_, ?_, ?_, ?_, ?_, ?_, ?_, ?_, ?_, ?_, ?_, ?_, ?_, ?_, fun _ h => absurd h List.not_mem_nil⟩ <;> first | exact ⟨rfl, rfl, rfl⟩ | exact fun _ => ⟨rfl, rfl, rfl⟩

theorem rowsB_good : ∀ r ∈ opcodeRowsB, r.Good := by
  simp only [opcodeRowsB, List.forall_mem_cons]
  refine ⟨?_, ?_, ?_, ?_, ?_, ?_, ?_, ?_, ?_, ?_, ?_, ?_, ?_, ?_, ?_, ?_, fun _ h => absurd h List.not_mem_nil⟩ <;> first | exact ⟨rfl, rfl, rfl⟩ | exact fun _ => ⟨rfl, rfl, rfl⟩

theorem rowsC_good : ∀ r ∈ opcodeRowsC, r.Good := by
  simp only [opcodeRowsC, List.forall_mem_cons]
  refine ⟨?_, ?_, ?_, ?_, ?_, ?_, ?_, ?_, ?_, ?_, ?_, ?_, ?_, ?_, ?_, ?_, fun _ h => absurd h List.not_mem_nil⟩ <;> first | exact ⟨rfl, rfl, rfl⟩ | exact fun _ => ⟨rfl, rfl, rfl⟩

theorem rowsD_good : ∀ r ∈ opcodeRowsD, r.Good := by
  simp only [opcodeRowsD, List.forall_mem_cons]
  refine ⟨?_, ?_, ?_, ?_, ?_, ?_, ?_, ?_, ?_, ?_, ?_, ?_, ?_, ?_, ?_, ?_, fun _ h => absurd h List.not_mem_nil⟩ <;> first | exact ⟨rfl, rfl, rfl⟩ | exact fun _ => ⟨rfl, rfl, rfl⟩

theorem rowsE_good : ∀ r ∈ opcodeRowsE, r.Good := by
  simp only [opcodeRowsE, List.forall_mem_cons]
  refine ⟨?_, ?_, ?_, ?_, ?_, ?_, ?_, ?_, ?_, ?_, ?_, ?_, ?_, ?_, ?_, ?_, fun _ h => absurd h List.not_mem_nil⟩ <;> first | exact ⟨rfl, rfl, rfl⟩ | exact fun _ => ⟨rfl, rfl, rfl⟩

theorem rowsF_good : ∀ r ∈ opcodeRowsF, r.Good := by
  simp only [opcodeRowsF, List.forall_mem_cons]
  refine ⟨?_, ?_, ?_, ?_, ?_, ?_, ?_, ?_, ?_, ?_, ?_, ?_, ?_, ?_, ?_, ?_, fun _ h => absurd h List.not_mem_nil⟩ <;> first | exact ⟨rfl, rfl, rfl⟩ | exact fun _ => ⟨rfl, rfl, rfl⟩

/-- Every row of the opcode table is good. -/
theorem opcodeTable_good : ∀ r ∈ opcodeTable, r.Good := by
  intro r hr
  simp only [opcodeTable, List.mem_append, or_assoc] at hr
  rcases hr with h | h | h | h | h | h | h | h | h | h | h | h | h | h | h | h
  · exact rows0_good r h
  · exact rows1_good r h
  · exact rows2_good r h
  · exact rows3_good r h
  · exact rows4_good r h
  · exact rows5_good r h
  · exact rows6_good r h
  · exact rows7_good r h
  · exact rows8_good r h
  · exact rows9_good r h
  · exact rowsA_good r h
  · exact rowsB_good r h
  · exact rowsC_good r h
  · exact rowsD_good r h
  · exact rowsE_good r h
  · exact rowsF_good r h

set_option maxRecDepth 4000 in
/-- The rows stand in byte order. -/
theorem opcodeTable_codes : opcodeTable.map (fun r => r.code) = (List.range 256).map (BitVec.ofNat 8) := by rfl

set_option maxRecDepth 4000 in
/-- The table has a row for every byte. -/
theorem opcodeTable_length : opcodeTable.length = 256 := by rfl

/-- The row of a byte is good and carries that byte. -/
theorem opcodeRow_good (code : Byte) : (opcodeRow code).Good ∧ (opcodeRow code).code = code := by
  have hlt : code.toNat < opcodeTable.length := by rw [opcodeTable_length]; exact code.isLt
  have hrow : opcodeRow code = opcodeTable[code.toNat] := by
    unfold opcodeRow
    rw [List.getElem?_eq_getElem hlt, Option.getD_some]
  rw [hrow]
  refine ⟨opcodeTable_good _ (List.getElem_mem hlt), ?_⟩
  have h := congrArg (fun l => l[code.toNat]?) opcodeTable_codes
  simp only [List.getElem?_map, List.getElem?_eq_getElem hlt, Option.map_some] at h
  rw [List.getElem?_eq_getElem (by rw [List.length_range]; exact code.isLt)] at h
  simpa using h

end Sys2Proof
end

