-- ==== Sys2Proof/Laws/Loopy.lean ====
section
/-! SUPPORT. The fields of a loopy register (R38): a field written is read back, and every other field is kept. -/

namespace Sys2Proof

/-- The bits of a loopy register after one field is replaced. -/
theorem Loopy.getLsbD_setField (r : Loopy) (lo : Nat) {len : Nat} (v : BitVec len) (i : Nat) (h : lo + len ≤ 15) :
    (r.setField lo v).getLsbD i = if lo ≤ i ∧ i < lo + len then v.getLsbD (i - lo) else r.getLsbD i := by
  unfold Loopy.setField
  simp only [BitVec.getLsbD_or, BitVec.getLsbD_and, BitVec.getLsbD_not, BitVec.getLsbD_shiftLeft, BitVec.getLsbD_setWidth,
    BitVec.getLsbD_allOnes]
  by_cases h1 : i < 15
  · by_cases h2 : i < lo
    · have : ¬ lo ≤ i := by omega
      simp [h1, h2, this]
    · by_cases h3 : i < lo + len
      · have h4 : i - lo < 15 := by omega
        have h5 : i - lo < len := by omega
        have h6 : lo ≤ i := by omega
        simp [h1, h2, h3, h4, h5, h6]
      · have h5 : ¬ i - lo < len := by omega
        have h6 : v.getLsbD (i - lo) = false := BitVec.getLsbD_of_ge v _ (by omega)
        simp [h1, h2, h3, h5, h6]
  · have h2 : ¬ (lo ≤ i ∧ i < lo + len) := by omega
    have h3 : r.getLsbD i = false := BitVec.getLsbD_of_ge r _ (by omega)
    simp [h1, h2, h3]

/-- A field written is read back. -/
theorem Loopy.field_setField (r : Loopy) (lo : Nat) {len : Nat} (v : BitVec len) (h : lo + len ≤ 15) :
    (r.setField lo v).field lo len = v := by
  apply BitVec.eq_of_getLsbD_eq
  intro i hi
  simp only [Loopy.field, BitVec.getLsbD_extractLsb', Loopy.getLsbD_setField r lo v (lo + i) h, hi, decide_true, Bool.true_and]
  rw [if_pos (by omega), Nat.add_sub_cancel_left]

/-- A field that does not overlap the one written is kept. -/
theorem Loopy.field_setField_other (r : Loopy) (lo lo' : Nat) {len : Nat} (len' : Nat) (v : BitVec len) (h : lo + len ≤ 15)
    (hd : lo' + len' ≤ lo ∨ lo + len ≤ lo') : (r.setField lo v).field lo' len' = r.field lo' len' := by
  apply BitVec.eq_of_getLsbD_eq
  intro i hi
  simp only [Loopy.field, BitVec.getLsbD_extractLsb', Loopy.getLsbD_setField r lo v (lo' + i) h, hi, decide_true, Bool.true_and]
  rw [if_neg (by omega)]

@[simp] theorem Loopy.coarseX_setCoarseX (r : Loopy) (v : BitVec 5) : (r.setCoarseX v).coarseX = v := r.field_setField 0 v (by decide)
@[simp] theorem Loopy.coarseX_setCoarseY (r : Loopy) (v : BitVec 5) : (r.setCoarseY v).coarseX = r.coarseX :=
  r.field_setField_other 5 0 5 v (by decide) (by decide)
@[simp] theorem Loopy.coarseX_setNametableX (r : Loopy) (v : BitVec 1) : (r.setNametableX v).coarseX = r.coarseX :=
  r.field_setField_other 10 0 5 v (by decide) (by decide)
@[simp] theorem Loopy.coarseX_setNametableY (r : Loopy) (v : BitVec 1) : (r.setNametableY v).coarseX = r.coarseX :=
  r.field_setField_other 11 0 5 v (by decide) (by decide)
@[simp] theorem Loopy.coarseX_setFineY (r : Loopy) (v : BitVec 3) : (r.setFineY v).coarseX = r.coarseX :=
  r.field_setField_other 12 0 5 v (by decide) (by decide)
@[simp] theorem Loopy.coarseY_setCoarseX (r : Loopy) (v : BitVec 5) : (r.setCoarseX v).coarseY = r.coarseY :=
  r.field_setField_other 0 5 5 v (by decide) (by decide)
@[simp] theorem Loopy.coarseY_setCoarseY (r : Loopy) (v : BitVec 5) : (r.setCoarseY v).coarseY = v := r.field_setField 5 v (by decide)
@[simp] theorem Loopy.coarseY_setNametableX (r : Loopy) (v : BitVec 1) : (r.setNametableX v).coarseY = r.coarseY :=
  r.field_setField_other 10 5 5 v (by decide) (by decide)
@[simp] theorem Loopy.coarseY_setNametableY (r : Loopy) (v : BitVec 1) : (r.setNametableY v).coarseY = r.coarseY :=
  r.field_setField_other 11 5 5 v (by decide) (by decide)
@[simp] theorem Loopy.coarseY_setFineY (r : Loopy) (v : BitVec 3) : (r.setFineY v).coarseY = r.coarseY :=
  r.field_setField_other 12 5 5 v (by decide) (by decide)
@[simp] theorem Loopy.nametableX_setCoarseX (r : Loopy) (v : BitVec 5) : (r.setCoarseX v).nametableX = r.nametableX :=
  r.field_setField_other 0 10 1 v (by decide) (by decide)
@[simp] theorem Loopy.nametableX_setCoarseY (r : Loopy) (v : BitVec 5) : (r.setCoarseY v).nametableX = r.nametableX :=
  r.field_setField_other 5 10 1 v (by decide) (by decide)
@[simp] theorem Loopy.nametableX_setNametableX (r : Loopy) (v : BitVec 1) : (r.setNametableX v).nametableX = v := r.field_setField 10 v (by decide)
@[simp] theorem Loopy.nametableX_setNametableY (r : Loopy) (v : BitVec 1) : (r.setNametableY v).nametableX = r.nametableX :=
  r.field_setField_other 11 10 1 v (by decide) (by decide)
@[simp] theorem Loopy.nametableX_setFineY (r : Loopy) (v : BitVec 3) : (r.setFineY v).nametableX = r.nametableX :=
  r.field_setField_other 12 10 1 v (by decide) (by decide)
@[simp] theorem Loopy.nametableY_setCoarseX (r : Loopy) (v : BitVec 5) : (r.setCoarseX v).nametableY = r.nametableY :=
  r.field_setField_other 0 11 1 v (by decide) (by decide)
@[simp] theorem Loopy.nametableY_setCoarseY (r : Loopy) (v : BitVec 5) : (r.setCoarseY v).nametableY = r.nametableY :=
  r.field_setField_other 5 11 1 v (by decide) (by decide)
@[simp] theorem Loopy.nametableY_setNametableX (r : Loopy) (v : BitVec 1) : (r.setNametableX v).nametableY = r.nametableY :=
  r.field_setField_other 10 11 1 v (by decide) (by decide)
@[simp] theorem Loopy.nametableY_setNametableY (r : Loopy) (v : BitVec 1) : (r.setNametableY v).nametableY = v := r.field_setField 11 v (by decide)
@[simp] theorem Loopy.nametableY_setFineY (r : Loopy) (v : BitVec 3) : (r.setFineY v).nametableY = r.nametableY :=
  r.field_setField_other 12 11 1 v (by decide) (by decide)
@[simp] theorem Loopy.fineY_setCoarseX (r : Loopy) (v : BitVec 5) : (r.setCoarseX v).fineY = r.fineY :=
  r.field_setField_other 0 12 3 v (by decide) (by decide)
@[simp] theorem Loopy.fineY_setCoarseY (r : Loopy) (v : BitVec 5) : (r.setCoarseY v).fineY = r.fineY :=
  r.field_setField_other 5 12 3 v (by decide) (by decide)
@[simp] theorem Loopy.fineY_setNametableX (r : Loopy) (v : BitVec 1) : (r.setNametableX v).fineY = r.fineY :=
  r.field_setField_other 10 12 3 v (by decide) (by decide)
@[simp] theorem Loopy.fineY_setNametableY (r : Loopy) (v : BitVec 1) : (r.setNametableY v).fineY = r.fineY :=
  r.field_setField_other 11 12 3 v (by decide) (by decide)
@[simp] theorem Loopy.fineY_setFineY (r : Loopy) (v : BitVec 3) : (r.setFineY v).fineY = v := r.field_setField 12 v (by decide)

/-- A loopy register is determined by its five fields. -/
theorem Loopy.ext {r q : Loopy} (h1 : r.coarseX = q.coarseX) (h2 : r.coarseY = q.coarseY) (h3 : r.nametableX = q.nametableX)
    (h4 : r.nametableY = q.nametableY) (h5 : r.fineY = q.fineY) : r = q := by
  apply BitVec.eq_of_getLsbD_eq
  intro i hi
  have key : ∀ lo len : Nat, r.field lo len = q.field lo len → lo ≤ i → i < lo + len → r.getLsbD i = q.getLsbD i := by
    intro lo len h hl hu
    have := congrArg (fun f => f.getLsbD (i - lo)) h
    simpa [Loopy.field, show i - lo < len by omega, show lo + (i - lo) = i by omega] using this
  by_cases c1 : i < 5
  · exact key 0 5 h1 (by omega) (by omega)
  · by_cases c2 : i < 10
    · exact key 5 5 h2 (by omega) (by omega)
    · by_cases c3 : i < 11
      · exact key 10 1 h3 (by omega) (by omega)
      · by_cases c4 : i < 12
        · exact key 11 1 h4 (by omega) (by omega)
        · exact key 12 3 h5 (by omega) (by omega)

end Sys2Proof
end

