-- ==== Sys2Proof/Laws/Ppu.lean ====
section
/-! SUPPORT. What the dot machine keeps (48 R402): port, memories, position and NMI request through the phases of a rendering line, and
the shape of the sprite units and of the pictures. -/

namespace Sys2Proof.Machine

/-! ### What the rendering phases keep -/

/-- The port's registers, the memories, the position, the NMI request and the finished picture are the same. -/
abbrev Stays (u w : Ppu) : Prop :=
  (w.control = u.control ∧ w.mask = u.mask ∧ w.oamAddr = u.oamAddr ∧ w.tramAddr = u.tramAddr ∧ w.fineX = u.fineX ∧
    w.writeToggle = u.writeToggle ∧ w.dataBuffer = u.dataBuffer) ∧
  (w.chrRom = u.chrRom ∧ w.vram = u.vram ∧ w.palette = u.palette ∧ w.oam = u.oam ∧ w.mirroring = u.mirroring) ∧
  (w.scanline = u.scanline ∧ w.dot = u.dot ∧ w.nmiPending = u.nmiPending ∧ w.completedFrame = u.completedFrame)

theorem Stays.refl (u : Ppu) : Stays u u :=
  ⟨⟨rfl, rfl, rfl, rfl, rfl, rfl, rfl⟩, ⟨rfl, rfl, rfl, rfl, rfl⟩, ⟨rfl, rfl, rfl, rfl⟩⟩

theorem Stays.trans {u w x : Ppu} (h : Stays u w) (h' : Stays w x) : Stays u x := by
  unfold Stays at *
  simp only [h.1, h.2.1, h.2.2] at h'
  exact h'

theorem Stays.phase {c : Bool} {f : Ppu → Ppu} {u : Ppu} (h : Stays u (f u)) : Stays u (phase c f u) := by
  cases c
  · exact Stays.refl u
  · exact h

theorem startPreRender_stays (u : Ppu) : Stays u (startPreRender u) := Stays.refl u
theorem shiftBackground_stays (u : Ppu) : Stays u (shiftBackground u) := by
  unfold shiftBackground; split <;> exact Stays.refl u
theorem stepSprites_stays (d : Nat) (u : Ppu) : Stays u (stepSprites d u) := by
  unfold stepSprites; split <;> exact Stays.refl u
theorem loadBackgroundShifters_stays (u : Ppu) : Stays u (loadBackgroundShifters u) := Stays.refl u
theorem fetchTileId_stays (u : Ppu) : Stays u (fetchTileId u) := Stays.refl u
theorem incrementScrollX_stays (u : Ppu) : Stays u (incrementScrollX u) := by
  unfold incrementScrollX; split <;> exact Stays.refl u
theorem incrementScrollY_stays (u : Ppu) : Stays u (incrementScrollY u) := by
  unfold incrementScrollY; split <;> exact Stays.refl u
theorem transferAddressX_stays (u : Ppu) : Stays u (transferAddressX u) := by
  unfold transferAddressX; split <;> exact Stays.refl u
theorem transferAddressY_stays (u : Ppu) : Stays u (transferAddressY u) := by
  unfold transferAddressY; split <;> exact Stays.refl u
theorem pipelineStep_stays (d : Nat) (u : Ppu) : Stays u (pipelineStep d u) := by
  unfold pipelineStep; split
  · exact Stays.refl u
  · exact Stays.refl u
  · exact Stays.refl u
  · exact Stays.refl u
  · exact incrementScrollX_stays u
  · exact Stays.refl u
theorem evaluateSprites_stays (s : Int) (u : Ppu) : Stays u (evaluateSprites s u) := Stays.refl u
theorem fetchSpritePatterns_stays (s : Int) (u : Ppu) : Stays u (fetchSpritePatterns s u) := Stays.refl u
theorem composePixel_stays (s : Int) (d : Nat) (u : Ppu) : Stays u (composePixel s d u) := Stays.refl u

/-- All the rendering phases of a dot. -/
theorem renderLine_stays (s : Int) (d : Nat) (u : Ppu) : Stays u (renderLine s d u) := by
  unfold renderLine
  refine Stays.trans ?_ (Stays.phase (composePixel_stays s d _))
  refine Stays.trans ?_ (Stays.phase (fetchSpritePatterns_stays s _))
  refine Stays.trans ?_ (Stays.phase (evaluateSprites_stays s _))
  refine Stays.trans ?_ (Stays.phase (transferAddressY_stays _))
  refine Stays.trans ?_ (Stays.phase (fetchTileId_stays _))
  refine Stays.trans ?_ (Stays.phase ((loadBackgroundShifters_stays _).trans (transferAddressX_stays _)))
  refine Stays.trans ?_ (Stays.phase (incrementScrollY_stays _))
  refine Stays.trans ?_ (Stays.phase ((shiftBackground_stays _).trans ((stepSprites_stays d _).trans (pipelineStep_stays d _))))
  exact Stays.phase (startPreRender_stays _)

/-! ### The shape of the sprite units and of the pictures -/

theorem length_mapFirst {α : Type} (f : α → α) : ∀ (n : Nat) (l : List α), (mapFirst f n l).length = l.length
  | 0, _ => rfl
  | _ + 1, [] => rfl
  | n + 1, x :: l => by simp [mapFirst, length_mapFirst f n l]

/-- What `mapFirst` leaves at each place. -/
theorem getElem?_mapFirst {α : Type} (f : α → α) :
    ∀ (n : Nat) (l : List α) (k : Nat), (mapFirst f n l)[k]? = if k < n then l[k]?.map f else l[k]?
  | 0, _, _ => by simp [mapFirst]
  | _ + 1, [], _ => by simp [mapFirst]
  | _ + 1, _ :: _, 0 => by simp [mapFirst]
  | n + 1, _ :: l, k + 1 => by simp [mapFirst, getElem?_mapFirst f n l k]

/-- The unit that `firstOpaque` finds: the first of the first `n` that is opaque, with its place (R393). -/
theorem firstOpaque_eq_some : ∀ (n i : Nat) (l : List SpriteUnit) (k : Nat) (q : SpriteUnit),
    firstOpaque n i l = some (k, q) ↔ ∃ j, k = i + j ∧ j < n ∧ l[j]? = some q ∧ (q.x = 0 ∧ q.color ≠ 0) ∧
      ∀ m q', m < j → l[m]? = some q' → ¬ (q'.x = 0 ∧ q'.color ≠ 0)
  | 0, _, _, _, _ => by simp [firstOpaque]
  | _ + 1, _, [], _, _ => by simp [firstOpaque]
  | n + 1, i, x :: l, k, q => by
    unfold firstOpaque
    split
    · next h =>
      constructor
      · intro e
        cases e
        exact ⟨0, rfl, by omega, rfl, h, fun m _ hm => absurd hm (by omega)⟩
      · rintro ⟨j, rfl, -, hq, -, hj⟩
        cases j with
        | zero => simpa using hq
        | succ j => exact absurd h (hj 0 x (by omega) rfl)
    · next h =>
      rw [firstOpaque_eq_some n (i + 1) l k q]
      constructor
      · rintro ⟨j, rfl, hn, hq, ho, hj⟩
        refine ⟨j + 1, by omega, by omega, hq, ho, fun m q' hm hq' => ?_⟩
        cases m with
        | zero => cases hq'; exact h
        | succ m => exact hj m q' (by omega) hq'
      · rintro ⟨j, rfl, hn, hq, ho, hj⟩
        cases j with
        | zero => cases hq; exact absurd ho h
        | succ j => exact ⟨j, by omega, by omega, hq, ho, fun m q' hm hq' => hj (m + 1) q' (by omega) hq'⟩

/-- A PPU read depends on the PPU's memories, mirroring and mask only (R352). -/
theorem ppuRead_congr {u w : Ppu} (h : Stays u w) (a : PpuAddr) : ppuRead w a = ppuRead u a := by
  obtain ⟨⟨-, hm, -⟩, ⟨hc, hv, hp, -, hr⟩, -⟩ := h
  have hg : w.grayscale = u.grayscale := congrArg (·.getLsbD 0) hm
  simp only [ppuRead, Ppu.paletteMask, hg, hc, hv, hp, hr]

/-- Eight sprite units, at most eight of them staged, and a picture in canonical form. -/
abbrev Drawn (u : Ppu) : Prop :=
  u.sprites.length = Config.stagedSprites ∧ u.spriteCount ≤ Config.stagedSprites ∧ u.frameBuffer.wf = true

theorem Drawn.phase {c : Bool} {f : Ppu → Ppu} {u : Ppu} (h : Drawn u) (hf : Drawn u → Drawn (f u)) : Drawn (phase c f u) := by
  cases c
  · exact h
  · exact hf h

theorem stepSprites_drawn {d : Nat} {u : Ppu} (h : Drawn u) : Drawn (stepSprites d u) := by
  unfold stepSprites; split
  · exact ⟨(length_mapFirst _ _ _).trans h.1, h.2⟩
  · exact h

theorem evaluateSprites_drawn {s : Int} {u : Ppu} (h : Drawn u) : Drawn (evaluateSprites s u) := by
  have hl : ((matchingSprites u s).take Config.stagedSprites).length ≤ Config.stagedSprites := by simp
  refine ⟨?_, hl, h.2.2⟩
  simp only [evaluateSprites, List.length_append, List.length_map, List.length_replicate]
  omega

theorem fetchSpritePatterns_drawn {s : Int} {u : Ppu} (h : Drawn u) : Drawn (fetchSpritePatterns s u) :=
  ⟨(length_mapFirst _ _ _).trans h.1, h.2⟩

theorem pipelineStep_drawn {d : Nat} {u : Ppu} (h : Drawn u) : Drawn (pipelineStep d u) := by
  unfold pipelineStep; split <;> first | exact h | (unfold incrementScrollX; split <;> exact h)

theorem composePixel_drawn {s : Int} {d : Nat} {u : Ppu} (hs : 0 ≤ s) (hs' : s ≤ 239) (hd : 1 ≤ d) (hd' : d ≤ 256) (h : Drawn u) :
    Drawn (composePixel s d u) := by
  refine ⟨h.1, h.2.1, Frame.wf_write h.2.2 ?_⟩
  have : s.toNat ≤ 239 := by omega
  unfold Frame.cell Frame.cells
  omega

/-- All the rendering phases of a dot on a rendering line. -/
theorem renderLine_drawn {s : Int} {d : Nat} {u : Ppu} (hs : s ≤ 239) (h : Drawn u) : Drawn (renderLine s d u) := by
  unfold renderLine
  have h1 := h.phase (c := decide (s = -1) && decide (d = 1)) (f := startPreRender)
    (fun h => ⟨(length_mapFirst _ _ _).trans h.1, h.2⟩)
  have h2 := h1.phase (c := inFetchWindow d) (f := fun u => pipelineStep d (stepSprites d (shiftBackground u)))
    (fun h => pipelineStep_drawn (stepSprites_drawn (by unfold shiftBackground; split <;> exact h)))
  have h3 := h2.phase (c := decide (d = 256)) (f := incrementScrollY) (fun h => by unfold incrementScrollY; split <;> exact h)
  have h4 := h3.phase (c := decide (d = 257)) (f := fun u => transferAddressX (loadBackgroundShifters u))
    (fun h => by unfold transferAddressX; split <;> exact h)
  have h5 := h4.phase (c := decide (d = 338) || decide (d = 340)) (f := fetchTileId) (fun h => h)
  have h6 := h5.phase (c := decide (s = -1) && decide (280 ≤ d) && decide (d ≤ 304)) (f := transferAddressY)
    (fun h => by unfold transferAddressY; split <;> exact h)
  have h7 := h6.phase (c := decide (d = 257)) (f := evaluateSprites s) evaluateSprites_drawn
  have h8 := h7.phase (c := decide (d = 340)) (f := fetchSpritePatterns s) fetchSpritePatterns_drawn
  cases hc : (decide (0 ≤ s) && decide (1 ≤ d) && decide (d ≤ 256))
  · exact h8
  · simp only [Bool.and_eq_true, decide_eq_true_eq] at hc
    exact composePixel_drawn hc.1.1 hs hc.1.2 hc.2 h8

/-! ### One dot -/

/-- What a dot does to the port, the memories and the position, on every line (R371, R373, R402). -/
theorem dot_keeps (skip : Bool) (u : Ppu) :
    ((dot skip u).control = u.control ∧ (dot skip u).mask = u.mask ∧ (dot skip u).oamAddr = u.oamAddr ∧
      (dot skip u).tramAddr = u.tramAddr ∧ (dot skip u).fineX = u.fineX ∧ (dot skip u).writeToggle = u.writeToggle ∧
      (dot skip u).dataBuffer = u.dataBuffer) ∧
    ((dot skip u).chrRom = u.chrRom ∧ (dot skip u).vram = u.vram ∧ (dot skip u).palette = u.palette ∧ (dot skip u).oam = u.oam ∧
      (dot skip u).mirroring = u.mirroring) := by
  have h0 : ∀ w : Ppu, (advanceCounters w).control = w.control ∧ (advanceCounters w).mask = w.mask ∧
      (advanceCounters w).oamAddr = w.oamAddr ∧ (advanceCounters w).tramAddr = w.tramAddr ∧ (advanceCounters w).fineX = w.fineX ∧
      (advanceCounters w).writeToggle = w.writeToggle ∧ (advanceCounters w).dataBuffer = w.dataBuffer ∧
      (advanceCounters w).chrRom = w.chrRom ∧ (advanceCounters w).vram = w.vram ∧ (advanceCounters w).palette = w.palette ∧
      (advanceCounters w).oam = w.oam ∧ (advanceCounters w).mirroring = w.mirroring := by
    intro w; unfold advanceCounters; split
    · split <;> exact ⟨rfl, rfl, rfl, rfl, rfl, rfl, rfl, rfl, rfl, rfl, rfl, rfl⟩
    · exact ⟨rfl, rfl, rfl, rfl, rfl, rfl, rfl, rfl, rfl, rfl, rfl, rfl⟩
  have h1 : ∀ (s : Int) (d : Nat) (w : Ppu), (dotWork s d w).control = w.control ∧ (dotWork s d w).mask = w.mask ∧
      (dotWork s d w).oamAddr = w.oamAddr ∧ (dotWork s d w).tramAddr = w.tramAddr ∧ (dotWork s d w).fineX = w.fineX ∧
      (dotWork s d w).writeToggle = w.writeToggle ∧ (dotWork s d w).dataBuffer = w.dataBuffer ∧
      (dotWork s d w).chrRom = w.chrRom ∧ (dotWork s d w).vram = w.vram ∧ (dotWork s d w).palette = w.palette ∧
      (dotWork s d w).oam = w.oam ∧ (dotWork s d w).mirroring = w.mirroring := by
    intro s d w; unfold dotWork; split
    · have h := renderLine_stays s d w
      exact ⟨h.1.1, h.1.2.1, h.1.2.2.1, h.1.2.2.2.1, h.1.2.2.2.2.1, h.1.2.2.2.2.2.1, h.1.2.2.2.2.2.2, h.2.1.1, h.2.1.2.1, h.2.1.2.2.1,
        h.2.1.2.2.2.1, h.2.1.2.2.2.2⟩
    · cases decide (s = 241) && decide (d = 1) <;> exact ⟨rfl, rfl, rfl, rfl, rfl, rfl, rfl, rfl, rfl, rfl, rfl, rfl⟩
  have h2 : ∀ w : Ppu, (skipDotZero skip w).control = w.control ∧ (skipDotZero skip w).mask = w.mask ∧
      (skipDotZero skip w).oamAddr = w.oamAddr ∧ (skipDotZero skip w).tramAddr = w.tramAddr ∧ (skipDotZero skip w).fineX = w.fineX ∧
      (skipDotZero skip w).writeToggle = w.writeToggle ∧ (skipDotZero skip w).dataBuffer = w.dataBuffer ∧
      (skipDotZero skip w).chrRom = w.chrRom ∧ (skipDotZero skip w).vram = w.vram ∧ (skipDotZero skip w).palette = w.palette ∧
      (skipDotZero skip w).oam = w.oam ∧ (skipDotZero skip w).mirroring = w.mirroring := by
    intro w; unfold skipDotZero; split <;> exact ⟨rfl, rfl, rfl, rfl, rfl, rfl, rfl, rfl, rfl, rfl, rfl, rfl⟩
  simp only [dot, dotBody, h0, h1, h2, and_self]

/-- The work of a dot leaves the position alone (R371, R372). -/
theorem dotWork_position (s : Int) (d : Nat) (u : Ppu) :
    (dotWork s d u).scanline = u.scanline ∧ (dotWork s d u).dot = u.dot ∧ (dotWork s d u).completedFrame = u.completedFrame := by
  unfold dotWork; split
  · have h := renderLine_stays s d u
    exact ⟨h.2.2.1, h.2.2.2.1, h.2.2.2.2.2⟩
  · cases decide (s = 241) && decide (d = 1) <;> exact ⟨rfl, rfl, rfl⟩

theorem dotWork_drawn {s : Int} {d : Nat} {u : Ppu} (h : Drawn u) : Drawn (dotWork s d u) := by
  unfold dotWork; split
  · next hs => exact renderLine_drawn hs.2 h
  · exact h.phase (fun h => h)

/-- The position after a dot, as a function of the position alone (R371, R373). -/
def nextPosition (skip : Bool) (p : Int × Nat) : Int × Nat :=
  let d := if skip = true ∧ p.1 = 0 ∧ p.2 = 0 then 1 else p.2
  if 341 ≤ d + 1 then (if 261 ≤ p.1 + 1 then (-1, 0) else (p.1 + 1, 0)) else (p.1, d + 1)

theorem dot_position (skip : Bool) (u : Ppu) : ((dot skip u).scanline, (dot skip u).dot) = nextPosition skip (u.scanline, u.dot) := by
  have hs : (skipDotZero skip u).scanline = u.scanline ∧
      (skipDotZero skip u).dot = if skip = true ∧ u.scanline = 0 ∧ u.dot = 0 then 1 else u.dot := by
    unfold skipDotZero; split <;> exact ⟨rfl, rfl⟩
  obtain ⟨h1, h2, -⟩ := dotWork_position (skipDotZero skip u).scanline (skipDotZero skip u).dot (skipDotZero skip u)
  have e1 : (dotBody skip u).scanline = u.scanline := h1.trans hs.1
  have e2 := h2.trans hs.2
  change (dotBody skip u).dot = _ at e2
  have ha : ∀ w : Ppu, ((advanceCounters w).scanline, (advanceCounters w).dot)
      = if 341 ≤ w.dot + 1 then (if 261 ≤ w.scanline + 1 then (-1, 0) else (w.scanline + 1, 0)) else (w.scanline, w.dot + 1) := by
    intro w; unfold advanceCounters endOfFrame; split
    · split <;> rfl
    · rfl
  unfold dot
  rw [ha]
  unfold nextPosition
  simp only [e1, e2]

/-- A dot keeps the invariant of the PPU. -/
theorem dot_inv (skip : Bool) {u : Ppu} (h : u.Inv) : (dot skip u).Inv := by
  obtain ⟨hm, ⟨hs1, hs2⟩, hd, hsp, hf, hc⟩ := h
  have hk := dot_keeps skip u
  have hp := dot_position skip u
  have hskip : Drawn (skipDotZero skip u) ∧ (skipDotZero skip u).completedFrame = u.completedFrame := by
    unfold skipDotZero; split <;> exact ⟨⟨hsp.1, hsp.2, hf⟩, rfl⟩
  have hb : Drawn (dotBody skip u) ∧ (dotBody skip u).completedFrame = u.completedFrame := by
    unfold dotBody
    exact ⟨dotWork_drawn hskip.1, (dotWork_position _ _ _).2.2.trans hskip.2⟩
  have hadv : Drawn (dot skip u) ∧ (dot skip u).completedFrame.wf = true := by
    unfold dot advanceCounters endOfFrame
    split
    · split
      · exact ⟨⟨hb.1.1, hb.1.2.1, rfl⟩, hb.1.2.2⟩
      · exact ⟨hb.1, by rw [hb.2]; exact hc⟩
    · exact ⟨hb.1, by rw [hb.2]; exact hc⟩
  refine ⟨?_, ?_, ?_, ⟨hadv.1.1, hadv.1.2.1⟩, hadv.1.2.2, hadv.2⟩
  · obtain ⟨k1, k2, k3, k4, -⟩ := hk.2
    simp only [PpuMemoriesOk, k1, k2, k3, k4]
    exact hm
  · have e1 : (dot skip u).scanline = (nextPosition skip (u.scanline, u.dot)).1 := congrArg Prod.fst hp
    rw [e1]; unfold nextPosition
    dsimp only
    split <;> split <;> (try split) <;> dsimp only <;> omega
  · have e2 : (dot skip u).dot = (nextPosition skip (u.scanline, u.dot)).2 := congrArg Prod.snd hp
    rw [e2]; unfold nextPosition
    dsimp only
    split <;> split <;> (try split) <;> dsimp only <;> omega

/-- So does every number of dots. -/
theorem ppuTick_inv (skip : Bool) : ∀ (n : Nat) {u : Ppu}, u.Inv → (ppuTick skip n u).Inv
  | 0, _, h => h
  | n + 1, _, h => ppuTick_inv skip n (dot_inv skip h)

/-- A number of dots keeps the cartridge. -/
theorem ppuTick_cartridge (skip : Bool) : ∀ (n : Nat) (u : Ppu),
    (ppuTick skip n u).chrRom = u.chrRom ∧ (ppuTick skip n u).mirroring = u.mirroring
  | 0, _ => ⟨rfl, rfl⟩
  | n + 1, u => by
    have ih := ppuTick_cartridge skip n (dot skip u)
    have h := (dot_keeps skip u).2
    exact ⟨ih.1.trans h.1, ih.2.trans h.2.2.2.2⟩

/-! ### The port -/

theorem ppuWrite_memories {u : Ppu} {a : PpuAddr} {v : Byte} (h : PpuMemoriesOk u) : PpuMemoriesOk (ppuWrite u a v) := by
  have hn : ntIndex u.mirroring a < Config.vramBytes := by
    have hb : ∀ n, ntBank u.mirroring n ≤ 1 := by
      intro n; cases u.mirroring <;> simp only [ntBank]
      · split <;> omega
      · omega
    have h1 := hb (((a &&& 0x2FFF#14).toNat - 0x2000) / 0x400)
    unfold ntIndex Config.vramBytes
    dsimp only
    omega
  have hp : palIndex a < Config.paletteBytes := by
    have h1 : (a &&& 0x001F#14).toNat < 32 := by
      have : (a &&& 0x001F#14).toNat = a.toNat % 32 := by
        rw [BitVec.toNat_and]; exact Nat.and_two_pow_sub_one_eq_mod a.toNat 5
      omega
    unfold palIndex Config.paletteBytes
    dsimp only
    split <;> omega
  unfold ppuWrite
  split
  · exact h
  · split
    · exact ⟨h.1, ⟨Memory.wf_write h.2.1.1, Memory.within_write v h.2.1.2 hn⟩, h.2.2⟩
    · exact ⟨h.1, h.2.1, ⟨Memory.wf_write h.2.2.1.1, Memory.within_write v h.2.2.1.2 hp⟩, h.2.2.2⟩

theorem oamPut_memories {u : Ppu} {v : Byte} (h : PpuMemoriesOk u) : PpuMemoriesOk (oamPut u v) :=
  ⟨h.1, h.2.1, h.2.2.1, ⟨Memory.wf_write h.2.2.2.1, Memory.within_write v h.2.2.2.2 (BitVec.isLt _)⟩⟩

/-- What a write to the port never changes: position, request, pictures, sprite units, cartridge (R331). -/
theorem ppuRegWrite_same (u : Ppu) (r : BitVec 3) (v : Byte) :
    let w := ppuRegWrite u r v
    w.scanline = u.scanline ∧ w.dot = u.dot ∧ w.nmiPending = u.nmiPending ∧ w.frameBuffer = u.frameBuffer ∧
    w.completedFrame = u.completedFrame ∧ w.sprites = u.sprites ∧ w.spriteCount = u.spriteCount ∧ w.chrRom = u.chrRom ∧
    w.mirroring = u.mirroring := by
  have hd : ∀ a, (ppuWrite u a v).scanline = u.scanline ∧ (ppuWrite u a v).dot = u.dot ∧ (ppuWrite u a v).nmiPending = u.nmiPending ∧
      (ppuWrite u a v).frameBuffer = u.frameBuffer ∧ (ppuWrite u a v).completedFrame = u.completedFrame ∧
      (ppuWrite u a v).sprites = u.sprites ∧ (ppuWrite u a v).spriteCount = u.spriteCount ∧ (ppuWrite u a v).chrRom = u.chrRom ∧
      (ppuWrite u a v).mirroring = u.mirroring := by
    intro a; unfold ppuWrite; split
    · exact ⟨rfl, rfl, rfl, rfl, rfl, rfl, rfl, rfl, rfl⟩
    · split <;> exact ⟨rfl, rfl, rfl, rfl, rfl, rfl, rfl, rfl, rfl⟩
  unfold ppuRegWrite
  repeat' split
  all_goals first
    | exact ⟨rfl, rfl, rfl, rfl, rfl, rfl, rfl, rfl, rfl⟩
    | (unfold writeScroll; split <;> exact ⟨rfl, rfl, rfl, rfl, rfl, rfl, rfl, rfl, rfl⟩)
    | (unfold writeAddress; split <;> exact ⟨rfl, rfl, rfl, rfl, rfl, rfl, rfl, rfl, rfl⟩)
    | exact hd _

theorem ppuRegWrite_memories {u : Ppu} {r : BitVec 3} {v : Byte} (h : PpuMemoriesOk u) : PpuMemoriesOk (ppuRegWrite u r v) := by
  unfold ppuRegWrite
  repeat' split
  all_goals first
    | exact h
    | exact oamPut_memories h
    | (unfold writeScroll; split <;> exact h)
    | (unfold writeAddress; split <;> exact h)
    | exact ppuWrite_memories h

/-- A write to the port keeps the invariant of the PPU. -/
theorem ppuRegWrite_inv {u : Ppu} {r : BitVec 3} {v : Byte} (h : u.Inv) : (ppuRegWrite u r v).Inv := by
  obtain ⟨h1, h2, -, h3, h4, h5, h6, -, -⟩ := ppuRegWrite_same u r v
  refine ⟨ppuRegWrite_memories h.1, ?_⟩
  simp only [PpuShapeOk, h1, h2, h3, h4, h5, h6]
  exact h.2

/-- What a read of the port never changes: everything but the flag and the toggle, or the buffer and the pointer (R86). -/
theorem ppuRegAfterRead_same (u : Ppu) (r : BitVec 3) :
    ∃ f t b v, ppuRegAfterRead u r = { u with verticalBlank := f, writeToggle := t, dataBuffer := b, vramAddr := v } := by
  unfold ppuRegAfterRead
  split
  · exact ⟨false, false, _, _, rfl⟩
  · split
    · exact ⟨_, _, _, _, rfl⟩
    · exact ⟨_, _, _, _, rfl⟩

theorem ppuRegAfterRead_inv {u : Ppu} {r : BitVec 3} (h : u.Inv) : (ppuRegAfterRead u r).Inv := by
  obtain ⟨f, t, b, v, e⟩ := ppuRegAfterRead_same u r
  rw [e]
  exact h

theorem oamDmaWrite_inv : ∀ (buf : List Byte) {u : Ppu}, u.Inv → (oamDmaWrite buf u).Inv
  | [], _, h => h
  | _ :: buf, _, h => oamDmaWrite_inv buf ⟨oamPut_memories h.1, h.2⟩

/-- The bulk OAM write changes OAM and `oam_addr` only (R348). -/
theorem oamDmaWrite_same : ∀ (buf : List Byte) (u : Ppu), ∃ oam,
    oamDmaWrite buf u = { u with oam := oam, oamAddr := u.oamAddr + BitVec.ofNat 8 buf.length }
  | [], u => ⟨u.oam, by simp [oamDmaWrite]⟩
  | v :: buf, u => by
    obtain ⟨oam, h⟩ := oamDmaWrite_same buf (oamPut u v)
    refine ⟨oam, ?_⟩
    have e : u.oamAddr + 1 + BitVec.ofNat 8 buf.length = u.oamAddr + BitVec.ofNat 8 (buf.length + 1) := by
      apply BitVec.eq_of_toNat_eq; simp; omega
    simp only [List.length_cons, ← e]
    exact h

end Sys2Proof.Machine
end

