-- ==== Sys2Proof/Laws/Ops.lean ====
section
/-! SUPPORT. Everything the shared operations and an instruction can do: what they keep (`Kept`), the stack, and the shapes of the
memory instructions. -/

namespace Sys2Proof.Machine

/-! ### What an instruction keeps -/

/-- The invariant without the bound of the pending counter. -/
abbrev Sound (s : State) : Prop :=
  MemoryOk Config.ramBytes s.ram ∧ MemoryOk s.prgSize.bytes s.prgRom ∧ StatusOk s.p ∧ s.joypad.Inv ∧ s.ppu.Inv

/-- What the CPU's side of the machine never does to the PPU (R96): position, request, pictures, sprite units, cartridge. -/
abbrev StandsStill (u w : Ppu) : Prop :=
  w.scanline = u.scanline ∧ w.dot = u.dot ∧ w.nmiPending = u.nmiPending ∧ w.frameBuffer = u.frameBuffer ∧
  w.completedFrame = u.completedFrame ∧ w.sprites = u.sprites ∧ w.spriteCount = u.spriteCount ∧ w.chrRom = u.chrRom ∧
  w.mirroring = u.mirroring

theorem StandsStill.trans {u w x : Ppu} (h : StandsStill u w) (h' : StandsStill w x) : StandsStill u x := by
  unfold StandsStill at *
  simp only [h] at h'
  exact h'

/-- What every operation inside an instruction keeps. -/
abbrev Kept (s t : State) : Prop :=
  SameHost s t ∧ StandsStill s.ppu t.ppu ∧ t.joypad.buttons = s.joypad.buttons ∧ t.cycles = s.cycles ∧ t.run = s.run ∧
    t.pc = s.pc ∧ (Sound s → Sound t)

theorem Kept.refl (s : State) : Kept s s :=
  ⟨⟨rfl, rfl, rfl, rfl, rfl, rfl⟩, ⟨rfl, rfl, rfl, rfl, rfl, rfl, rfl, rfl, rfl⟩, rfl, rfl, rfl, rfl, id⟩

theorem Kept.trans {s t u : State} (h : Kept s t) (h' : Kept t u) : Kept s u := by
  obtain ⟨⟨a1, a2, a3, a4, a5, a6⟩, b, c, d, e, f, g⟩ := h
  obtain ⟨⟨a1', a2', a3', a4', a5', a6'⟩, b', c', d', e', f', g'⟩ := h'
  exact ⟨⟨a1'.trans a1, a2'.trans a2, a3'.trans a3, a4'.trans a4, a5'.trans a5, a6'.trans a6⟩, b.trans b', c'.trans c, d'.trans d,
    e'.trans e, f'.trans f, fun hs => g' (g hs)⟩

/-! Status bytes -/

theorem StatusOk.zn {p v : Byte} (h : StatusOk p) : StatusOk (zn p v) := by
  simpa [StatusOk, flagOf_zn] using h

theorem StatusOk.withFlag {p : Byte} {f : Flag} {b : Bool} (hb : f ≠ .b) (hu : f ≠ .u) (h : StatusOk p) : StatusOk (withFlag p f b) := by
  have h1 : Flag.b ≠ f := hb.symm
  have h2 : Flag.u ≠ f := hu.symm
  simpa [StatusOk, flagOf_withFlag, h1, h2] using h

theorem StatusOk.withoutBreak (p : Byte) : StatusOk (withoutBreak p) := by
  simp [StatusOk, flagOf_withoutBreak]

theorem StatusOk.addStatus {p a m : Byte} (h : StatusOk p) : StatusOk (addStatus p a m) := by
  simpa [StatusOk, flagOf_addStatus] using h

theorem StatusOk.compareStatus {p v m : Byte} (h : StatusOk p) : StatusOk (compareStatus p v m) := by
  simpa [StatusOk, flagOf_compareStatus] using h

theorem StatusOk.bitStatus {p a m : Byte} (h : StatusOk p) : StatusOk (bitStatus p a m) := by
  simpa [StatusOk, flagOf_bitStatus] using h

/-- An operation that changes the register file only keeps the rest. -/
theorem Kept.registers {s : State} {a x y sp p : Byte} (hp : StatusOk s.p → StatusOk p) :
    Kept s { s with a := a, x := x, y := y, sp := sp, p := p } :=
  ⟨⟨rfl, rfl, rfl, rfl, rfl, rfl⟩, ⟨rfl, rfl, rfl, rfl, rfl, rfl, rfl, rfl, rfl⟩, rfl, rfl, rfl, rfl,
    fun h => ⟨h.1, h.2.1, hp h.2.2.1, h.2.2.2⟩⟩

theorem writeA_kept (s : State) (v : Byte) : Kept s (s.writeA v) := Kept.registers StatusOk.zn
theorem writeX_kept (s : State) (v : Byte) : Kept s (s.writeX v) := Kept.registers StatusOk.zn
theorem writeY_kept (s : State) (v : Byte) : Kept s (s.writeY v) := Kept.registers StatusOk.zn
theorem writeSp_kept (s : State) (v : Byte) : Kept s (s.writeSp v) := Kept.registers id
theorem setZN_kept (s : State) (v : Byte) : Kept s (s.setZN v) := Kept.registers StatusOk.zn
theorem setFlag_kept (s : State) {f : Flag} (b : Bool) (hb : f ≠ .b) (hu : f ≠ .u) : Kept s (s.setFlag f b) :=
  Kept.registers (StatusOk.withFlag hb hu)
theorem addWithCarry_kept (s : State) (m : Byte) : Kept s (s.addWithCarry m) := Kept.registers StatusOk.addStatus
theorem compare_kept (s : State) (v m : Byte) : Kept s (s.compare v m) := Kept.registers StatusOk.compareStatus
theorem afterShift_kept (s : State) (k : Shift) (m r : Byte) : Kept s (s.afterShift k m r) :=
  (setFlag_kept s (k.carry m) (f := .c) (by decide) (by decide)).trans (setZN_kept _ r)
theorem shiftA_kept (s : State) (k : Shift) : Kept s (s.shiftA k) :=
  (afterShift_kept s k s.a (k.result s.a (s.flag .c))).trans (Kept.registers id)

/-! Memory, devices, the stack -/

theorem writeRam_kept (s : State) (a : Addr) (v : Byte) : Kept s (writeRam s a v) :=
  ⟨⟨rfl, rfl, rfl, rfl, rfl, rfl⟩, ⟨rfl, rfl, rfl, rfl, rfl, rfl, rfl, rfl, rfl⟩, rfl, rfl, rfl, rfl,
    fun h => ⟨⟨Memory.wf_write h.1.1, Memory.within_write v h.1.2 (Nat.mod_lt _ (by decide))⟩, h.2⟩⟩

theorem push8_kept (s : State) (v : Byte) : Kept s (push8 s v) :=
  (writeRam_kept s (stackAddr s.sp) v).trans (Kept.registers id)
theorem push16_kept (s : State) (v : Addr) : Kept s (push16 s v) := (push8_kept s _).trans (push8_kept _ _)
theorem pull8_kept (s : State) : Kept s (pull8 s) := Kept.registers id
theorem pull16_kept (s : State) : Kept s (pull16 s) := (pull8_kept s).trans (pull8_kept _)

theorem joypadAfterRead_inv {j : Joypad} (h : j.Inv) : (joypadAfterRead j).Inv := by
  unfold joypadAfterRead
  split
  · exact h
  · split
    · exact h
    · next h1 h2 => exact ⟨by simp only; omega, fun h3 => absurd h3 h2⟩

theorem joypadWrite_inv {j : Joypad} {v : Byte} (h : j.Inv) : (joypadWrite j v).Inv := by
  unfold joypadWrite
  split
  · exact ⟨Nat.zero_le _, fun _ => rfl⟩
  · exact ⟨h.1, fun h3 => absurd h3 (by simp)⟩

theorem afterRead_kept (s : State) (a : Addr) : Kept s (afterRead s a) := by
  unfold afterRead
  split
  · exact Kept.refl s
  · split
    · obtain ⟨f, t, b, v, e⟩ := ppuRegAfterRead_same s.ppu (ppuRegister a)
      refine ⟨⟨rfl, rfl, rfl, rfl, rfl, rfl⟩, ?_, rfl, rfl, rfl, rfl, fun h => ⟨h.1, h.2.1, h.2.2.1, h.2.2.2.1, ppuRegAfterRead_inv h.2.2.2.2⟩⟩
      dsimp only
      rw [e]
      exact ⟨rfl, rfl, rfl, rfl, rfl, rfl, rfl, rfl, rfl⟩
    · split
      · refine ⟨⟨rfl, rfl, rfl, rfl, rfl, rfl⟩, ⟨rfl, rfl, rfl, rfl, rfl, rfl, rfl, rfl, rfl⟩, ?_, rfl, rfl, rfl,
          fun h => ⟨h.1, h.2.1, h.2.2.1, joypadAfterRead_inv h.2.2.2.1, h.2.2.2.2⟩⟩
        unfold joypadAfterRead; dsimp only; split
        · rfl
        · split <;> rfl
      · exact Kept.refl s

theorem afterBlock_kept : ∀ (n : Nat) (s : State) (a : Addr), Kept s (afterBlock n s a)
  | 0, s, _ => Kept.refl s
  | n + 1, s, a => (afterRead_kept s a).trans (afterBlock_kept n (afterRead s a) (a + 1))

theorem writeOam_kept (buf : List Byte) (s : State) : Kept s (writeOam buf s) := by
  obtain ⟨oam, e⟩ := oamDmaWrite_same buf s.ppu
  refine ⟨⟨rfl, rfl, rfl, rfl, rfl, rfl⟩, ?_, rfl, rfl, rfl, rfl, fun h => ⟨h.1, h.2.1, h.2.2.1, h.2.2.2.1, oamDmaWrite_inv buf h.2.2.2.2⟩⟩
  unfold writeOam
  dsimp only
  rw [e]
  exact ⟨rfl, rfl, rfl, rfl, rfl, rfl, rfl, rfl, rfl⟩

theorem oamDma_kept (s : State) (v : Byte) : Kept s (oamDma s v) := by
  unfold oamDma
  generalize Config.dmaBytes = n
  exact (afterBlock_kept n s _).trans (writeOam_kept _ _)

/-- A write that goes on keeps everything of `Kept`. -/
theorem busWrite_kept {s t : State} {a : Addr} {v : Byte} (h : busWrite s a v = .next t) : Kept s t := by
  unfold busWrite at h
  split at h
  · cases h; exact writeRam_kept s a v
  · split at h
    · cases h
      obtain ⟨h1, h2, h3, h4, h5, h6, h7, h8, h9⟩ := ppuRegWrite_same s.ppu (ppuRegister a) v
      exact ⟨⟨rfl, rfl, rfl, rfl, rfl, rfl⟩, ⟨h1, h2, h3, h4, h5, h6, h7, h8, h9⟩, rfl, rfl, rfl, rfl,
        fun h => ⟨h.1, h.2.1, h.2.2.1, h.2.2.2.1, ppuRegWrite_inv h.2.2.2.2⟩⟩
    · split at h
      · injection h with h; subst h; exact oamDma_kept s v
      · split at h
        · cases h
          refine ⟨⟨rfl, rfl, rfl, rfl, rfl, rfl⟩, ⟨rfl, rfl, rfl, rfl, rfl, rfl, rfl, rfl, rfl⟩, ?_, rfl, rfl, rfl,
            fun h => ⟨h.1, h.2.1, h.2.2.1, joypadWrite_inv h.2.2.2.1, h.2.2.2.2⟩⟩
          unfold joypadWrite; dsimp only; split <;> rfl
        · split at h
          · cases h; exact Kept.refl s
          · cases h

/-! ### Ends of instructions -/

/-- The two ways an instruction that goes on can end, after `s1`, having cost `cost`. -/
abbrev EndsFrom (s1 t : State) (cost : Nat) : Prop :=
  (∃ length, t = complete length cost s1) ∨ ∃ length target, t = jumpTo length cost target s1

/-- Everything an instruction that goes on can do: what it keeps, and a cost of 2 to 8. -/
abbrev Acts (s t : State) : Prop := ∃ s1 cost, Kept s { s1 with pc := s.pc } ∧ 2 ≤ cost ∧ cost ≤ 8 ∧ EndsFrom s1 t cost

theorem Acts.complete {s s1 : State} {length cost : Nat} (h : Kept s s1) (h1 : 2 ≤ cost) (h2 : cost ≤ 8) :
    Acts s (complete length cost s1) :=
  ⟨s1, cost, h.trans ⟨⟨rfl, rfl, rfl, rfl, rfl, rfl⟩, ⟨rfl, rfl, rfl, rfl, rfl, rfl, rfl, rfl, rfl⟩, rfl, rfl, rfl, h.2.2.2.2.2.1.symm, id⟩,
    h1, h2, .inl ⟨length, rfl⟩⟩

theorem Acts.jumpTo {s s1 : State} {length cost : Nat} {target : Addr} (h : Kept s { s1 with pc := s.pc }) (h1 : 2 ≤ cost) (h2 : cost ≤ 8) :
    Acts s (jumpTo length cost target s1) :=
  ⟨s1, cost, h, h1, h2, .inr ⟨length, target, rfl⟩⟩

theorem Kept.setPc {s s1 : State} (h : Kept s s1) : Kept s { s1 with pc := s.pc } :=
  h.trans ⟨⟨rfl, rfl, rfl, rfl, rfl, rfl⟩, ⟨rfl, rfl, rfl, rfl, rfl, rfl, rfl, rfl, rfl⟩, rfl, rfl, rfl, h.2.2.2.2.2.1.symm, id⟩

theorem afterOperand_kept (o : Operand) (e : Effective) (s : State) : Kept s (afterOperand o e s) := by
  unfold afterOperand
  split
  · exact Kept.refl s
  · exact afterRead_kept s _

theorem readCycles_bounds (o : Operand) : 2 ≤ o.readCycles ∧ o.readCycles ≤ 6 := by
  cases o <;> simp [Operand.readCycles]
theorem storeCycles_bounds (o : Operand) : 2 ≤ o.storeCycles ∧ o.storeCycles ≤ 8 := by
  cases o <;> simp [Operand.storeCycles]
theorem rmwCycles_bounds (o : Operand) : 2 ≤ o.rmwCycles ∧ o.rmwCycles ≤ 8 := by
  cases o <;> simp [Operand.rmwCycles]

theorem bonus_le (e : Effective) : bonus e ≤ 1 := by
  unfold bonus; split <;> omega

/-- An implied instruction. -/
theorem implied_acts {f : State → State} {s t : State} (hf : ∀ s, Kept s (f s)) (h : implied f s = .next t) : Acts s t := by
  cases h
  exact Acts.complete (hf s) (Nat.le_refl 2) (by omega)

/-- A reading instruction. -/
theorem readOperand_acts {o : Operand} {f : Byte → State → State} {s t : State} (hf : ∀ m s, Kept s (f m s))
    (h : readOperand o f s = .next t) : Acts s t := by
  unfold readOperand at h
  split at h
  · cases h
  · next e _ =>
    cases h
    have h1 := readCycles_bounds o
    have h2 := bonus_le e
    exact Acts.complete ((afterOperand_kept o e s).trans (hf _ _)) (by omega) (by omega)

/-- A storing instruction. -/
theorem storeOperand_acts {o : Operand} {v : Byte} {s t : State} (h : storeOperand o v s = .next t) : Acts s t := by
  unfold storeOperand at h
  split at h
  · cases h
  · next e _ =>
    cases hw : busWrite s e.addr v with
    | next s1 =>
      rw [hw] at h
      cases h
      exact Acts.complete (busWrite_kept hw) (storeCycles_bounds o).1 (storeCycles_bounds o).2
    | fault x => rw [hw] at h; cases h
    | refused x => rw [hw] at h; cases h

/-- A read-modify-write instruction. -/
theorem modifyOperand_acts {o : Operand} {r : Byte → Byte} {f : Byte → Byte → State → State} {s t : State}
    (hf : ∀ m v s, Kept s (f m v s)) (h : modifyOperand o r f s = .next t) : Acts s t := by
  unfold modifyOperand at h
  split at h
  · cases h
  · next e _ =>
    dsimp only at h
    cases hw : busWrite (afterOperand o e s) e.addr (r (operandValue o e s)) with
    | next s1 =>
      rw [hw] at h
      cases h
      exact Acts.complete (((afterOperand_kept o e s).trans (busWrite_kept hw)).trans (hf _ _ _)) (rmwCycles_bounds o).1
        (rmwCycles_bounds o).2
    | fault x => rw [hw] at h; cases h
    | refused x => rw [hw] at h; cases h

theorem shiftOperand_acts {k : Shift} {o : Operand} {s t : State} (h : shiftOperand k o s = .next t) : Acts s t := by
  unfold shiftOperand at h
  split at h
  · exact implied_acts (fun s => shiftA_kept s k) h
  · exact modifyOperand_acts (fun m v s => afterShift_kept s k m v) h

theorem branch_acts {taken : Bool} {d : Byte} {s t : State} (h : branch taken d s = .next t) : Acts s t := by
  unfold branch at h
  split at h
  · cases h
    have : branchCost d s = 4 ∨ branchCost d s = 3 := by unfold branchCost; split <;> simp
    exact Acts.jumpTo (Kept.refl s).setPc (by omega) (by omega)
  · cases h
    exact Acts.complete (Kept.refl s) (Nat.le_refl 2) (by omega)

theorem takeInterrupt_kept (back : Addr) (status : Byte) (vector : Addr) (s : State) :
    Kept s { takeInterrupt back status vector s with pc := s.pc } :=
  Kept.setPc (s1 := (push8 (push16 s back) status).setFlag .i true)
    (((push16_kept s back).trans (push8_kept _ status)).trans (setFlag_kept _ true (by decide) (by decide)))

theorem returnFromInterrupt_kept (s : State) : Kept s { returnFromInterrupt s with pc := s.pc } :=
  Kept.setPc (s1 := pull16 ((pull8 s).writeP (withoutBreak (pulled8 s))))
    (((pull8_kept s).trans (Kept.registers fun _ => StatusOk.withoutBreak _)).trans (pull16_kept _))

end Sys2Proof.Machine
end

