-- ==== Sys2Proof/Laws/Operands.lean ====
section
/-! SUPPORT. The three shapes of a memory instruction, each said once: what it answers, and what the next state holds. -/

namespace Sys2Proof.Machine

/-- Every operand form but the accumulator has an effective address (R160 to R169). -/
theorem effective_of_ne_acc {o : Operand} (h : o ≠ .acc) (s : State) : ∃ e, effective o s = some e := by
  cases o with
  | acc => exact absurd rfl h
  | imm b => exact ⟨_, rfl⟩
  | zp b => exact ⟨_, rfl⟩
  | zpx b => exact ⟨_, rfl⟩
  | zpy b => exact ⟨_, rfl⟩
  | abs b => exact ⟨_, rfl⟩
  | abx b => exact ⟨_, rfl⟩
  | aby b => exact ⟨_, rfl⟩
  | izx b => exact ⟨_, rfl⟩
  | izy b => exact ⟨_, rfl⟩

/-- An operand's encoded bytes are one less than its length (R122). -/
theorem operand_length (o : Operand) : o.length = o.bytes.length + 1 := by cases o <;> rfl

/-- A reading instruction answers (R173). -/
theorem readOperand_eq {o : Operand} {e : Effective} {s : State} (h : effective o s = some e) (f : Byte → State → State) :
    readOperand o f s = .next (complete o.length (o.readCycles + bonus e) (f (operandValue o e s) (afterOperand o e s))) := by
  simp only [readOperand, h]

/-- A storing instruction below `$8000`: it goes on, with the store made (R193, R421). -/
theorem storeOperand_below {o : Operand} {e : Effective} {s : State} (h : effective o s = some e) (hb : e.addr < 0x8000#16) (v : Byte) :
    ∃ t, storeOperand o v s = .next t ∧ t.registers = s.registers ∧ t.p = s.p ∧ t.pc = s.pc + BitVec.ofNat 16 o.bytes.length ∧
      t.cycles = s.cycles + o.storeCycles ∧ t.run = s.run ∧ SameHost s t ∧ (s.ram.wf = true → Stored s t e.addr v) := by
  obtain ⟨t, ht, h1, h2, h3, h4, h5, h6, h7⟩ := busWrite_below hb v
  refine ⟨complete o.length o.storeCycles t, ?_, h1, h2, ?_, ?_, h5, h6, fun hw => ?_⟩
  · simp only [storeOperand, h, ht, andThen]
  · simp only [complete_pc, h3, operand_length, Nat.add_sub_cancel]
  · simp only [complete_cycles, h4]
  · have e1 : ∀ a, peek (complete o.length o.storeCycles t) a = peek t a := fun a => peek_congr rfl rfl rfl rfl rfl rfl a
    have h8 := h7 hw
    simp only [Stored, SameMemory, e1, complete_ram, complete_ppu, complete_joypad]
    exact h8

/-- A storing instruction at or above `$8000` (R81). -/
theorem storeOperand_rom {o : Operand} {e : Effective} {s : State} (h : effective o s = some e) (hb : 0x8000#16 ≤ e.addr) (v : Byte) :
    storeOperand o v s = .fault (.romWrite e.addr v) := by
  simp only [storeOperand, h, busWrite_rom hb, andThen]

/-- A read-modify-write instruction below `$8000` (R240, R300): one read, one store made in the state the read left, and then `f`, which
changes the register file only. -/
theorem modifyOperand_below {o : Operand} {e : Effective} {s : State} (h : effective o s = some e) (hb : e.addr < 0x8000#16)
    (r : Byte → Byte) (f : Byte → Byte → State → State) :
    ∃ s1, modifyOperand o r f s = .next (complete o.length o.rmwCycles (f (operandValue o e s) (r (operandValue o e s)) s1)) ∧
      s1.registers = s.registers ∧ s1.p = s.p ∧ s1.pc = s.pc ∧ s1.cycles = s.cycles ∧ s1.run = s.run ∧ SameHost s s1 ∧
      (s.ram.wf = true → Stored (afterOperand o e s) s1 e.addr (r (operandValue o e s))) := by
  obtain ⟨s1, ht, h1, h2, h3, h4, h5, h6, h7⟩ := busWrite_below (s := afterOperand o e s) hb (r (operandValue o e s))
  have hk : (afterOperand o e s).registers = s.registers ∧ (afterOperand o e s).p = s.p ∧ (afterOperand o e s).pc = s.pc ∧
      (afterOperand o e s).cycles = s.cycles ∧ (afterOperand o e s).run = s.run ∧ (afterOperand o e s).ram = s.ram ∧
      SameHost s (afterOperand o e s) := by
    unfold afterOperand
    split
    · exact ⟨rfl, rfl, rfl, rfl, rfl, rfl, rfl, rfl, rfl, rfl, rfl, rfl⟩
    · simp [SameHost]
  obtain ⟨k1, k2, k3, k4, k5, k6, k7⟩ := hk
  refine ⟨s1, ?_, h1.trans k1, h2.trans k2, h3.trans k3, h4.trans k4, h5.trans k5, ?_, fun hw => h7 (by rw [k6]; exact hw)⟩
  · simp only [modifyOperand, h, ht, andThen]
  · obtain ⟨a1, a2, a3, a4, a5, a6⟩ := h6
    obtain ⟨b1, b2, b3, b4, b5, b6⟩ := k7
    exact ⟨a1.trans b1, a2.trans b2, a3.trans b3, a4.trans b4, a5.trans b5, a6.trans b6⟩

/-- A read-modify-write instruction at or above `$8000`: the fault comes at its store (R462). -/
theorem modifyOperand_rom {o : Operand} {e : Effective} {s : State} (h : effective o s = some e) (hb : 0x8000#16 ≤ e.addr)
    (r : Byte → Byte) (f : Byte → Byte → State → State) :
    modifyOperand o r f s = .fault (.romWrite e.addr (r (operandValue o e s))) := by
  simp only [modifyOperand, h, busWrite_rom hb, andThen]

end Sys2Proof.Machine
end

