-- ==== Sys2Proof/Laws/PerInstr.lean ====
section
/-! SUPPORT. One statement about every instruction as syntax: a well-formed term has an opcode byte, and the table's row of that byte has
as many operand bytes as the term. -/

/-- A well-formed instruction has an opcode byte whose row has its operand bytes (R121, R122, R130). -/
def Sys2Proof.Laws.Encoding.Statement (i : Sys2Proof.Instr) : Prop :=
  i.wellFormed = true → ∃ code, i.opcode = some code ∧ (Sys2Proof.opcodeRow code).shape.operandBytes = i.operandBytes.length

namespace Sys2Proof.Laws.Encoding

open Sys2Proof

theorem lda (o : Operand) : Statement (.lda o) := by
  intro h
  cases o <;> first | exact ⟨_, rfl, rfl⟩ | exact (Bool.false_ne_true h).elim
theorem ldx (o : Operand) : Statement (.ldx o) := by
  intro h
  cases o <;> first | exact ⟨_, rfl, rfl⟩ | exact (Bool.false_ne_true h).elim
theorem ldy (o : Operand) : Statement (.ldy o) := by
  intro h
  cases o <;> first | exact ⟨_, rfl, rfl⟩ | exact (Bool.false_ne_true h).elim
theorem sta (o : Operand) : Statement (.sta o) := by
  intro h
  cases o <;> first | exact ⟨_, rfl, rfl⟩ | exact (Bool.false_ne_true h).elim
theorem stx (o : Operand) : Statement (.stx o) := by
  intro h
  cases o <;> first | exact ⟨_, rfl, rfl⟩ | exact (Bool.false_ne_true h).elim
theorem sty (o : Operand) : Statement (.sty o) := by
  intro h
  cases o <;> first | exact ⟨_, rfl, rfl⟩ | exact (Bool.false_ne_true h).elim
theorem tax : Statement (.tax) := fun _ => ⟨_, rfl, rfl⟩
theorem tay : Statement (.tay) := fun _ => ⟨_, rfl, rfl⟩
theorem txa : Statement (.txa) := fun _ => ⟨_, rfl, rfl⟩
theorem tya : Statement (.tya) := fun _ => ⟨_, rfl, rfl⟩
theorem tsx : Statement (.tsx) := fun _ => ⟨_, rfl, rfl⟩
theorem txs : Statement (.txs) := fun _ => ⟨_, rfl, rfl⟩
theorem adc (o : Operand) : Statement (.adc o) := by
  intro h
  cases o <;> first | exact ⟨_, rfl, rfl⟩ | exact (Bool.false_ne_true h).elim
theorem sbc (o : Operand) : Statement (.sbc o) := by
  intro h
  cases o <;> first | exact ⟨_, rfl, rfl⟩ | exact (Bool.false_ne_true h).elim
theorem and (o : Operand) : Statement (.and o) := by
  intro h
  cases o <;> first | exact ⟨_, rfl, rfl⟩ | exact (Bool.false_ne_true h).elim
theorem ora (o : Operand) : Statement (.ora o) := by
  intro h
  cases o <;> first | exact ⟨_, rfl, rfl⟩ | exact (Bool.false_ne_true h).elim
theorem eor (o : Operand) : Statement (.eor o) := by
  intro h
  cases o <;> first | exact ⟨_, rfl, rfl⟩ | exact (Bool.false_ne_true h).elim
theorem cmp (o : Operand) : Statement (.cmp o) := by
  intro h
  cases o <;> first | exact ⟨_, rfl, rfl⟩ | exact (Bool.false_ne_true h).elim
theorem cpx (o : Operand) : Statement (.cpx o) := by
  intro h
  cases o <;> first | exact ⟨_, rfl, rfl⟩ | exact (Bool.false_ne_true h).elim
theorem cpy (o : Operand) : Statement (.cpy o) := by
  intro h
  cases o <;> first | exact ⟨_, rfl, rfl⟩ | exact (Bool.false_ne_true h).elim
theorem bit (o : Operand) : Statement (.bit o) := by
  intro h
  cases o <;> first | exact ⟨_, rfl, rfl⟩ | exact (Bool.false_ne_true h).elim
theorem inc (o : Operand) : Statement (.inc o) := by
  intro h
  cases o <;> first | exact ⟨_, rfl, rfl⟩ | exact (Bool.false_ne_true h).elim
theorem dec (o : Operand) : Statement (.dec o) := by
  intro h
  cases o <;> first | exact ⟨_, rfl, rfl⟩ | exact (Bool.false_ne_true h).elim
theorem inx : Statement (.inx) := fun _ => ⟨_, rfl, rfl⟩
theorem iny : Statement (.iny) := fun _ => ⟨_, rfl, rfl⟩
theorem dex : Statement (.dex) := fun _ => ⟨_, rfl, rfl⟩
theorem dey : Statement (.dey) := fun _ => ⟨_, rfl, rfl⟩
theorem asl (o : Operand) : Statement (.asl o) := by
  intro h
  cases o <;> first | exact ⟨_, rfl, rfl⟩ | exact (Bool.false_ne_true h).elim
theorem lsr (o : Operand) : Statement (.lsr o) := by
  intro h
  cases o <;> first | exact ⟨_, rfl, rfl⟩ | exact (Bool.false_ne_true h).elim
theorem rol (o : Operand) : Statement (.rol o) := by
  intro h
  cases o <;> first | exact ⟨_, rfl, rfl⟩ | exact (Bool.false_ne_true h).elim
theorem ror (o : Operand) : Statement (.ror o) := by
  intro h
  cases o <;> first | exact ⟨_, rfl, rfl⟩ | exact (Bool.false_ne_true h).elim
theorem bcc (disp : Byte) : Statement (.bcc disp) := fun _ => ⟨_, rfl, rfl⟩
theorem bcs (disp : Byte) : Statement (.bcs disp) := fun _ => ⟨_, rfl, rfl⟩
theorem beq (disp : Byte) : Statement (.beq disp) := fun _ => ⟨_, rfl, rfl⟩
theorem bne (disp : Byte) : Statement (.bne disp) := fun _ => ⟨_, rfl, rfl⟩
theorem bmi (disp : Byte) : Statement (.bmi disp) := fun _ => ⟨_, rfl, rfl⟩
theorem bpl (disp : Byte) : Statement (.bpl disp) := fun _ => ⟨_, rfl, rfl⟩
theorem bvc (disp : Byte) : Statement (.bvc disp) := fun _ => ⟨_, rfl, rfl⟩
theorem bvs (disp : Byte) : Statement (.bvs disp) := fun _ => ⟨_, rfl, rfl⟩
theorem jmp (target : Addr) : Statement (.jmp target) := fun _ => ⟨_, rfl, rfl⟩
theorem jmpInd (pointer : Addr) : Statement (.jmpInd pointer) := fun _ => ⟨_, rfl, rfl⟩
theorem jsr (target : Addr) : Statement (.jsr target) := fun _ => ⟨_, rfl, rfl⟩
theorem rts : Statement (.rts) := fun _ => ⟨_, rfl, rfl⟩
theorem pha : Statement (.pha) := fun _ => ⟨_, rfl, rfl⟩
theorem php : Statement (.php) := fun _ => ⟨_, rfl, rfl⟩
theorem pla : Statement (.pla) := fun _ => ⟨_, rfl, rfl⟩
theorem plp : Statement (.plp) := fun _ => ⟨_, rfl, rfl⟩
theorem clc : Statement (.clc) := fun _ => ⟨_, rfl, rfl⟩
theorem sec : Statement (.sec) := fun _ => ⟨_, rfl, rfl⟩
theorem cli : Statement (.cli) := fun _ => ⟨_, rfl, rfl⟩
theorem sei : Statement (.sei) := fun _ => ⟨_, rfl, rfl⟩
theorem clv : Statement (.clv) := fun _ => ⟨_, rfl, rfl⟩
theorem cld : Statement (.cld) := fun _ => ⟨_, rfl, rfl⟩
theorem sed : Statement (.sed) := fun _ => ⟨_, rfl, rfl⟩
theorem nop : Statement (.nop) := fun _ => ⟨_, rfl, rfl⟩
theorem brk : Statement (.brk) := fun _ => ⟨_, rfl, rfl⟩
theorem rti : Statement (.rti) := fun _ => ⟨_, rfl, rfl⟩
theorem lax (o : Operand) : Statement (.lax o) := by
  intro h
  cases o <;> first | exact ⟨_, rfl, rfl⟩ | exact (Bool.false_ne_true h).elim
theorem sax (o : Operand) : Statement (.sax o) := by
  intro h
  cases o <;> first | exact ⟨_, rfl, rfl⟩ | exact (Bool.false_ne_true h).elim
theorem dcp (o : Operand) : Statement (.dcp o) := by
  intro h
  cases o <;> first | exact ⟨_, rfl, rfl⟩ | exact (Bool.false_ne_true h).elim
theorem isb (o : Operand) : Statement (.isb o) := by
  intro h
  cases o <;> first | exact ⟨_, rfl, rfl⟩ | exact (Bool.false_ne_true h).elim
theorem slo (o : Operand) : Statement (.slo o) := by
  intro h
  cases o <;> first | exact ⟨_, rfl, rfl⟩ | exact (Bool.false_ne_true h).elim
theorem rla (o : Operand) : Statement (.rla o) := by
  intro h
  cases o <;> first | exact ⟨_, rfl, rfl⟩ | exact (Bool.false_ne_true h).elim
theorem sre (o : Operand) : Statement (.sre o) := by
  intro h
  cases o <;> first | exact ⟨_, rfl, rfl⟩ | exact (Bool.false_ne_true h).elim
theorem rra (o : Operand) : Statement (.rra o) := by
  intro h
  cases o <;> first | exact ⟨_, rfl, rfl⟩ | exact (Bool.false_ne_true h).elim
theorem sbcEB (value : Byte) : Statement (.sbcEB value) := fun _ => ⟨_, rfl, rfl⟩
theorem nopImplied (code : Byte) : Statement (.nopImplied code) := by
  intro h
  have k : ∀ c : Byte, (Instr.nopImplied c).wellFormed = true → (Instr.nopImplied c).opcode = some c ∧ (opcodeRow c).shape.operandBytes = 0 := by
    decide
  exact ⟨code, k code h⟩
theorem nopOperand (code : Byte) (o : Operand) : Statement (.nopOperand code o) := by
  intro h
  refine ⟨code, if_pos h, ?_⟩
  have hc : code ∈ nopOperandCodes o.format := List.mem_of_elem_eq_true h
  have k1 : ∀ c ∈ nopOperandCodes .imm ++ nopOperandCodes .zp ++ nopOperandCodes .zpx, (opcodeRow c).shape.operandBytes = 1 := by
    decide
  have k2 : ∀ c ∈ nopOperandCodes .abs ++ nopOperandCodes .abx, (opcodeRow c).shape.operandBytes = 2 := by decide
  cases o with
  | imm v => exact k1 code (List.mem_append_left _ (List.mem_append_left _ hc))
  | zp v => exact k1 code (List.mem_append_left _ (List.mem_append_right _ hc))
  | zpx v => exact k1 code (List.mem_append_right _ hc)
  | abs a => exact k2 code (List.mem_append_left _ hc)
  | abx a => exact k2 code (List.mem_append_right _ hc)
  | acc => exact absurd hc List.not_mem_nil
  | zpy v => exact absurd hc List.not_mem_nil
  | aby a => exact absurd hc List.not_mem_nil
  | izx v => exact absurd hc List.not_mem_nil
  | izy v => exact absurd hc List.not_mem_nil
theorem jam (code : Byte) : Statement (.jam code) := by
  intro h
  have k : ∀ c : Byte, (Instr.jam c).wellFormed = true → (Instr.jam c).opcode = some c ∧ (opcodeRow c).shape.operandBytes = 0 := by
    decide
  exact ⟨code, k code h⟩
theorem anc (code : Byte) : Statement (.anc code) := by
  intro h
  have k : ∀ c : Byte, (Instr.anc c).wellFormed = true → (Instr.anc c).opcode = some c ∧ (opcodeRow c).shape.operandBytes = 0 := by
    decide
  exact ⟨code, k code h⟩
theorem alr : Statement (.alr) := fun _ => ⟨_, rfl, rfl⟩
theorem arr : Statement (.arr) := fun _ => ⟨_, rfl, rfl⟩
theorem ane : Statement (.ane) := fun _ => ⟨_, rfl, rfl⟩
theorem sha (code : Byte) : Statement (.sha code) := by
  intro h
  have k : ∀ c : Byte, (Instr.sha c).wellFormed = true → (Instr.sha c).opcode = some c ∧ (opcodeRow c).shape.operandBytes = 0 := by
    decide
  exact ⟨code, k code h⟩
theorem tas : Statement (.tas) := fun _ => ⟨_, rfl, rfl⟩
theorem shy : Statement (.shy) := fun _ => ⟨_, rfl, rfl⟩
theorem shx : Statement (.shx) := fun _ => ⟨_, rfl, rfl⟩
theorem lxa : Statement (.lxa) := fun _ => ⟨_, rfl, rfl⟩
theorem las : Statement (.las) := fun _ => ⟨_, rfl, rfl⟩
theorem sbx : Statement (.sbx) := fun _ => ⟨_, rfl, rfl⟩

end Sys2Proof.Laws.Encoding
end

