-- ==== Sys2Proof/Laws/Stack.lean ====
section
/-! SUPPORT. The stack: what pushes leave in memory and what an interrupt entry does (40 R176 to R179, 60 R470). -/

namespace Sys2Proof.Machine

theorem stackAddr_le (sp : Byte) : stackAddr sp ≤ 0x1FFF#16 := by
  unfold stackAddr zext16
  have := sp.isLt
  rw [BitVec.le_def, BitVec.toNat_add]; simp; omega

theorem stackAddr_toNat (sp : Byte) : (stackAddr sp).toNat = 256 + sp.toNat := by
  unfold stackAddr zext16
  have := sp.isLt
  rw [BitVec.toNat_add]; simp; omega

theorem push8_wf {s : State} {v : Byte} (h : s.ram.wf = true) : (push8 s v).ram.wf = true := by
  rw [push8_ram]; exact Memory.wf_write h

/-- A read after one push (R176). -/
theorem peek_push8 {s : State} (h : s.ram.wf = true) (v : Byte) (a : Addr) :
    (sameRamCell a (stackAddr s.sp) → peek (push8 s v) a = v) ∧ (¬ sameRamCell a (stackAddr s.sp) → peek (push8 s v) a = peek s a) := by
  have e : peek (push8 s v) a = peek (writeRam s (stackAddr s.sp) v) a := peek_congr rfl rfl rfl rfl rfl rfl a
  rw [e]
  exact peek_writeRam h (stackAddr_le s.sp) v a

/-- Different stack pointers designate different cells (R23). -/
theorem sameRam_stack (a b : Byte) : sameRamCell (stackAddr a) (stackAddr b) ↔ a = b := by
  constructor
  · rintro ⟨-, -, h⟩
    rw [stackAddr_toNat, stackAddr_toNat] at h
    have := a.isLt; have := b.isLt
    apply BitVec.eq_of_toNat_eq; omega
  · rintro rfl; exact ⟨stackAddr_le a, stackAddr_le a, rfl⟩

/-- One push (R176). -/
theorem pushed1 {s : State} (h : s.ram.wf = true) (v : Byte) : Pushed s (push8 s v) [v] := by
  refine ⟨rfl, ?_, ?_⟩
  · intro k w hk
    have hk0 : k = 0 := by
      match k with
      | ⟨0, _⟩ => rfl
      | ⟨1, _⟩ => simp at hk
      | ⟨2, _⟩ => simp at hk
    subst hk0
    have hv : v = w := by simpa using hk
    subst hv
    exact (peek_push8 h v _).1 (by simpa [stackAddr] using (sameRam_stack s.sp s.sp).2 rfl)
  · intro a ha
    exact (peek_push8 h v a).2 (by have := ha 0 (by simp); simpa [stackAddr] using this)

theorem sp_sub0 (sp : Byte) : sp - 0 = sp := by simp
theorem sp_sub2 (sp : Byte) : sp - 1 - 1 = sp - 2 := by apply BitVec.eq_of_toNat_eq; simp [BitVec.toNat_sub]; omega
theorem sp_sub3 (sp : Byte) : sp - 1 - 1 - 1 = sp - 3 := by apply BitVec.eq_of_toNat_eq; simp [BitVec.toNat_sub]; omega

theorem sp_ne1 (sp : Byte) : sp ≠ sp - 1 := by intro h; have := congrArg BitVec.toNat h; simp [BitVec.toNat_sub] at this; omega
theorem sp_ne2 (sp : Byte) : sp ≠ sp - 2 := by intro h; have := congrArg BitVec.toNat h; simp [BitVec.toNat_sub] at this; omega

/-- Three pushes. -/
theorem pushed3 {s : State} (h : s.ram.wf = true) (v1 v2 v3 : Byte) : Pushed s (push8 (push8 (push8 s v1) v2) v3) [v1, v2, v3] := by
  have w1 := push8_wf (v := v1) h
  have w2 := push8_wf (v := v2) w1
  have p1 := fun a => peek_push8 h v1 a
  have p2 := fun a => peek_push8 w1 v2 a
  have p3 := fun a => peek_push8 w2 v3 a
  simp only [push8_sp] at p1 p2 p3
  rw [sp_sub2] at p3
  refine ⟨by simp only [push8_sp]; exact sp_sub3 _, ?_, ?_⟩
  · intro k w hk
    match k, hk with
    | ⟨0, _⟩, hk =>
      have hv : v1 = w := by simpa using hk
      subst hv
      show peek _ (stackAddr (s.sp - 0)) = _
      rw [sp_sub0, (p3 _).2 (by rw [sameRam_stack]; exact sp_ne2 _), (p2 _).2 (by rw [sameRam_stack]; exact sp_ne1 _), (p1 _).1 (by rw [sameRam_stack])]
    | ⟨1, _⟩, hk =>
      have hv : v2 = w := by simpa using hk
      subst hv
      show peek _ (stackAddr (s.sp - 1)) = _
      rw [(p3 _).2 (by rw [sameRam_stack, ← sp_sub2]; exact sp_ne1 _), (p2 _).1 (by rw [sameRam_stack])]
    | ⟨2, _⟩, hk =>
      have hv : v3 = w := by simpa using hk
      subst hv
      show peek _ (stackAddr (s.sp - 2)) = _
      rw [(p3 _).1 (by rw [sameRam_stack])]
  · intro a ha
    have h0 := ha 0 (by simp); have h1 := ha 1 (by simp); have h2 := ha 2 (by simp)
    change ¬ sameRamCell a (stackAddr (s.sp - 0)) at h0
    change ¬ sameRamCell a (stackAddr (s.sp - 1)) at h1
    change ¬ sameRamCell a (stackAddr (s.sp - 2)) at h2
    rw [sp_sub0] at h0
    rw [(p3 _).2 h2, (p2 _).2 h1, (p1 _).2 h0]

/-- Two pushes (R178). -/
theorem pushed2 {s : State} (h : s.ram.wf = true) (v1 v2 : Byte) : Pushed s (push8 (push8 s v1) v2) [v1, v2] := by
  have w1 := push8_wf (v := v1) h
  have p1 := fun a => peek_push8 h v1 a
  have p2 := fun a => peek_push8 w1 v2 a
  simp only [push8_sp] at p1 p2
  refine ⟨by simp only [push8_sp]; exact sp_sub2 _, ?_, ?_⟩
  · intro k w hk
    match k, hk with
    | ⟨0, _⟩, hk =>
      have hv : v1 = w := by simpa using hk
      subst hv
      show peek _ (stackAddr (s.sp - 0)) = _
      rw [sp_sub0, (p2 _).2 (by rw [sameRam_stack]; exact sp_ne1 _), (p1 _).1 (by rw [sameRam_stack])]
    | ⟨1, _⟩, hk =>
      have hv : v2 = w := by simpa using hk
      subst hv
      show peek _ (stackAddr (s.sp - 1)) = _
      rw [(p2 _).1 (by rw [sameRam_stack])]
    | ⟨2, _⟩, hk => simp at hk
  · intro a ha
    have h0 := ha 0 (by simp); have h1 := ha 1 (by simp)
    change ¬ sameRamCell a (stackAddr (s.sp - 0)) at h0
    change ¬ sameRamCell a (stackAddr (s.sp - 1)) at h1
    rw [sp_sub0] at h0
    rw [(p2 _).2 h1, (p1 _).2 h0]

/-- What an interrupt entry pushes and where it goes (R282, R470). -/
theorem takeInterrupt_spec {s : State} (h : s.ram.wf = true) (back : Addr) (status : Byte) {vector : Addr} (hv : 0x8000#16 ≤ vector) (hv' : vector ≠ 0xFFFF#16) :
    Pushed s (takeInterrupt back status vector s) [hiByte back, loByte back, status] ∧
    (takeInterrupt back status vector s).pc = wordOf (peek s (vector + 1)) (peek s vector) := by
  constructor
  · have h3 := pushed3 h (hiByte back) (loByte back) status
    have e : ∀ a, peek (takeInterrupt back status vector s) a = peek (push8 (push8 (push8 s (hiByte back)) (loByte back)) status) a := by
      intro a
      apply peek_congr <;> simp [takeInterrupt, push16]
    refine ⟨?_, ?_, ?_⟩
    · rw [takeInterrupt_sp]; exact h3.1
    · intro k v hk; rw [e]; exact h3.2.1 k v hk
    · intro a ha; rw [e]; exact h3.2.2 a ha
  · rw [takeInterrupt_pc]
    unfold peek16
    rw [peek_rom (a := vector) hv, peek_rom (a := vector) hv, peek_rom (a := vector + 1) (by bv_omega), peek_rom (a := vector + 1) (by bv_omega)]
    simp

end Sys2Proof.Machine
end

