-- ==== Sys2Proof/Laws/Status.lean ====
section
/-! SUPPORT. The flag computations in the words of Safety.lean: what a status byte says after `SetZN`, a shift, `AddWithCarry` and
`Compare`, in integers, and when an instruction was quiet. -/

namespace Sys2Proof.Machine

/-- `SetZN` sets Z and N of its value (R12). -/
theorem zn_sets (p v : Byte) : SetsZN p (zn p v) v := by
  refine ⟨by simp [flagOf_zn], by simp [flagOf_zn], fun f hf => ?_⟩
  simp at hf; simp [flagOf_zn, hf]

/-- `SetZN` twice with one value is `SetZN` (R301). -/
theorem sets_zn_zn (p v : Byte) : SetsZN p (zn (zn p v) v) v := by
  refine ⟨by simp [flagOf_zn], by simp [flagOf_zn], fun f hf => ?_⟩
  simp at hf; simp [flagOf_zn, hf]

/-- A carry and `SetZN` (R240). -/
theorem sets_czn (p v : Byte) (c : Bool) : SetsCZN p (zn (withFlag p .c c) v) c v := by
  refine ⟨by simp [flagOf_zn, flagOf_withFlag], by simp [flagOf_zn], by simp [flagOf_zn], fun f hf => ?_⟩
  simp at hf; simp [flagOf_zn, flagOf_withFlag, hf]

/-- `AddWithCarry` in integers (R210, R211). -/
theorem added (p a m : Byte) : Added p (addStatus p a m) a m (addResult a m (flagOf p .c)) (flagOf p .c) := by
  refine ⟨by simp [addResult, addSum], ?_, ?_, ?_, ?_, ?_⟩
  · simp [flagOf_addStatus, addSum, Nat.lt_iff_add_one_le, Nat.add_assoc]
  · simp only [flagOf_addStatus]; simp [addOverflow_eq]
  · simp [flagOf_addStatus]
  · simp [flagOf_addStatus]
  · intro f hf; simp at hf; simp [flagOf_addStatus, hf]

/-- `AddWithCarry` of a complement is a subtraction with borrow (R212). -/
theorem subtracted (p a m : Byte) : Subtracted p (addStatus p a (~~~m)) a m (addResult a (~~~m) (flagOf p .c)) (flagOf p .c) := by
  obtain ⟨h1, h2, h3, h4, h5, h6⟩ := added p a (~~~m)
  have hn : (~~~m).toNat = 255 - m.toNat := by simp [BitVec.toNat_not]
  have hi : (~~~m).toInt = -1 - m.toInt := (by decide : ∀ m : Byte, (~~~m).toInt = -1 - m.toInt) m
  have hc := (flagOf p .c).toNat_lt
  have hm := m.isLt; have ha := a.isLt
  refine ⟨?_, ?_, ?_, h4, h5, h6⟩
  · rw [h1, hn]; omega
  · rw [h2, hn, decide_eq_decide]; omega
  · rw [h3, hi, decide_eq_decide]; omega

/-- The flags of `Compare` (R216). -/
theorem compare_flags (p v m : Byte) : flagOf (compareStatus p v m) .c = decide (m.toNat ≤ v.toNat) ∧ flagOf (compareStatus p v m) .z = decide (v = m) ∧
    flagOf (compareStatus p v m) .n = (v - m).getLsbD 7 ∧ KeepsFlagsBut p (compareStatus p v m) [.c, .z, .n] := by
  refine ⟨by simp [flagOf_compareStatus, BitVec.le_def], ?_, by simp [flagOf_compareStatus], fun f hf => by simp at hf; simp [flagOf_compareStatus, hf]⟩
  simp only [flagOf_compareStatus]
  simp only [show Flag.z ≠ Flag.n by decide, if_false, if_true, decide_eq_decide]
  constructor
  · intro h
    have := congrArg (· + m) h
    simpa using this
  · rintro rfl; simp

/-- The results of the four shifts in integers (R241 to R244). -/
theorem shift_result_toNat (v : Byte) (c : Bool) : (Shift.asl.result v c).toNat = 2 * v.toNat % 256 ∧ (Shift.lsr.result v c).toNat = v.toNat / 2 ∧
   (Shift.rol.result v c).toNat = 2 * v.toNat % 256 + c.toNat ∧ (Shift.ror.result v c).toNat = v.toNat / 2 + 128 * c.toNat := by
  revert v c; decide

/-- A state that differs in the register file and the pending counter only was reached quietly. -/
theorem quiet_of {s t : State} (h1 : SameHost s t) (h2 : t.ram = s.ram) (h3 : t.ppu = s.ppu) (h4 : t.joypad = s.joypad) (h5 : t.run = s.run) : Quiet s t :=
  ⟨h1, ⟨fun a => peek_congr h2 h1.2.1 h1.2.2.1 h3 h4 h1.2.2.2.1 a, h2, h3, h4⟩, h5⟩

end Sys2Proof.Machine
end

