-- ==== Sys2Proof/Laws/Step.lean ====
section
/-! SUPPORT. Everything an instruction that goes on can do, and the cases of a step. -/

namespace Sys2Proof.Machine

/-- An instruction that goes on acts as `Acts` says, or is the BRK that halts (R282). -/
theorem exec_acts {i : Instr} {s t : State} (h : exec i s = .next t) :
    Acts s t ∨ (i = .brk ∧ s.params.brkMode = .halt ∧ t = { s with run := .halted }) := by
  cases i with
  | lda o => simp only [exec, execLda] at h; refine .inl (readOperand_acts ?_ h); exact fun m s => writeA_kept s m
  | ldx o => simp only [exec, execLdx] at h; refine .inl (readOperand_acts ?_ h); exact fun m s => writeX_kept s m
  | ldy o => simp only [exec, execLdy] at h; refine .inl (readOperand_acts ?_ h); exact fun m s => writeY_kept s m
  | sta o => exact .inl (storeOperand_acts h)
  | stx o => exact .inl (storeOperand_acts h)
  | sty o => exact .inl (storeOperand_acts h)
  | tax => simp only [exec, execTax] at h; refine .inl (implied_acts ?_ h); exact fun s => writeX_kept s _
  | tay => simp only [exec, execTay] at h; refine .inl (implied_acts ?_ h); exact fun s => writeY_kept s _
  | txa => simp only [exec, execTxa] at h; refine .inl (implied_acts ?_ h); exact fun s => writeA_kept s _
  | tya => simp only [exec, execTya] at h; refine .inl (implied_acts ?_ h); exact fun s => writeA_kept s _
  | tsx => simp only [exec, execTsx] at h; refine .inl (implied_acts ?_ h); exact fun s => writeX_kept s _
  | txs => simp only [exec, execTxs] at h; refine .inl (implied_acts ?_ h); exact fun s => writeSp_kept s _
  | adc o => simp only [exec, execAdc] at h; refine .inl (readOperand_acts ?_ h); exact fun m s => addWithCarry_kept s m
  | sbc o => simp only [exec, execSbc] at h; refine .inl (readOperand_acts ?_ h); exact fun m s => addWithCarry_kept s _
  | and o => simp only [exec, execAnd] at h; refine .inl (readOperand_acts ?_ h); exact fun m s => writeA_kept s _
  | ora o => simp only [exec, execOra] at h; refine .inl (readOperand_acts ?_ h); exact fun m s => writeA_kept s _
  | eor o => simp only [exec, execEor] at h; refine .inl (readOperand_acts ?_ h); exact fun m s => writeA_kept s _
  | cmp o => simp only [exec, execCmp] at h; refine .inl (readOperand_acts ?_ h); exact fun m s => compare_kept s _ m
  | cpx o => simp only [exec, execCpx] at h; refine .inl (readOperand_acts ?_ h); exact fun m s => compare_kept s _ m
  | cpy o => simp only [exec, execCpy] at h; refine .inl (readOperand_acts ?_ h); exact fun m s => compare_kept s _ m
  | bit o => simp only [exec, execBit] at h; refine .inl (readOperand_acts ?_ h); exact fun m s => Kept.registers StatusOk.bitStatus
  | inc o => simp only [exec, execInc] at h; refine .inl (modifyOperand_acts ?_ h); exact fun _ r s => setZN_kept s r
  | dec o => simp only [exec, execDec] at h; refine .inl (modifyOperand_acts ?_ h); exact fun _ r s => setZN_kept s r
  | inx => simp only [exec, execInx] at h; refine .inl (implied_acts ?_ h); exact fun s => writeX_kept s _
  | iny => simp only [exec, execIny] at h; refine .inl (implied_acts ?_ h); exact fun s => writeY_kept s _
  | dex => simp only [exec, execDex] at h; refine .inl (implied_acts ?_ h); exact fun s => writeX_kept s _
  | dey => simp only [exec, execDey] at h; refine .inl (implied_acts ?_ h); exact fun s => writeY_kept s _
  | asl o => exact .inl (shiftOperand_acts h)
  | lsr o => exact .inl (shiftOperand_acts h)
  | rol o => exact .inl (shiftOperand_acts h)
  | ror o => exact .inl (shiftOperand_acts h)
  | bcc d => exact .inl (branch_acts h)
  | bcs d => exact .inl (branch_acts h)
  | beq d => exact .inl (branch_acts h)
  | bne d => exact .inl (branch_acts h)
  | bmi d => exact .inl (branch_acts h)
  | bpl d => exact .inl (branch_acts h)
  | bvc d => exact .inl (branch_acts h)
  | bvs d => exact .inl (branch_acts h)
  | jmp w => cases h; exact .inl (Acts.jumpTo (Kept.refl s).setPc (by omega) (by omega))
  | jmpInd w =>
    simp only [exec, execJmpInd] at h
    split at h
    · cases h
    · split at h
      · cases h
      · cases h; exact .inl (Acts.jumpTo (Kept.refl s).setPc (by omega) (by omega))
  | jsr w => cases h; exact .inl (Acts.jumpTo (push16_kept s _).setPc (by omega) (by omega))
  | rts => cases h; exact .inl (Acts.jumpTo (pull16_kept s).setPc (by omega) (by omega))
  | pha => cases h; exact .inl (Acts.complete (push8_kept s _) (by omega) (by omega))
  | php => cases h; exact .inl (Acts.complete (push8_kept s _) (by omega) (by omega))
  | pla => cases h; exact .inl (Acts.complete ((pull8_kept s).trans (writeA_kept _ _)) (by omega) (by omega))
  | plp =>
    cases h
    exact .inl (Acts.complete ((pull8_kept s).trans (Kept.registers fun _ => StatusOk.withoutBreak _)) (by omega) (by omega))
  | clc => simp only [exec, execClc] at h; refine .inl (implied_acts ?_ h); exact fun s => setFlag_kept s _ (by decide) (by decide)
  | sec => simp only [exec, execSec] at h; refine .inl (implied_acts ?_ h); exact fun s => setFlag_kept s _ (by decide) (by decide)
  | cli => simp only [exec, execCli] at h; refine .inl (implied_acts ?_ h); exact fun s => setFlag_kept s _ (by decide) (by decide)
  | sei => simp only [exec, execSei] at h; refine .inl (implied_acts ?_ h); exact fun s => setFlag_kept s _ (by decide) (by decide)
  | clv => simp only [exec, execClv] at h; refine .inl (implied_acts ?_ h); exact fun s => setFlag_kept s _ (by decide) (by decide)
  | cld => simp only [exec, execCld] at h; refine .inl (implied_acts ?_ h); exact fun s => setFlag_kept s _ (by decide) (by decide)
  | sed => simp only [exec, execSed] at h; refine .inl (implied_acts ?_ h); exact fun s => setFlag_kept s _ (by decide) (by decide)
  | nop => simp only [exec, execNop] at h; refine .inl (implied_acts ?_ h); exact fun s => Kept.refl s
  | brk =>
    simp only [exec, execBrk] at h
    split at h
    · cases h; exact .inl (Acts.jumpTo (takeInterrupt_kept _ _ _ s) (by omega) (by omega))
    · next hm => cases h; exact .inr ⟨rfl, hm, rfl⟩
  | rti => cases h; exact .inl (Acts.jumpTo (returnFromInterrupt_kept s) (by omega) (by omega))
  | lax o => simp only [exec, execLax] at h; refine .inl (readOperand_acts ?_ h); exact fun m s => (writeA_kept s m).trans (writeX_kept _ m)
  | sax o => exact .inl (storeOperand_acts h)
  | dcp o => simp only [exec, execDcp] at h; refine .inl (modifyOperand_acts ?_ h); exact fun _ r s => compare_kept s _ r
  | isb o => simp only [exec, execIsb] at h; refine .inl (modifyOperand_acts ?_ h); exact fun _ r s => addWithCarry_kept s _
  | slo o => simp only [exec, execSlo] at h; refine .inl (modifyOperand_acts ?_ h); exact fun m r s => (setFlag_kept s _ (by decide) (by decide)).trans (writeA_kept _ _)
  | rla o => simp only [exec, execRla] at h; refine .inl (modifyOperand_acts ?_ h); exact fun m r s => (setFlag_kept s _ (by decide) (by decide)).trans (writeA_kept _ _)
  | sre o => simp only [exec, execSre] at h; refine .inl (modifyOperand_acts ?_ h); exact fun m r s => (setFlag_kept s _ (by decide) (by decide)).trans (writeA_kept _ _)
  | rra o =>
    simp only [exec, execRra] at h
    refine .inl (modifyOperand_acts ?_ h); exact fun m r s => (setFlag_kept s _ (by decide) (by decide)).trans (addWithCarry_kept _ _)
  | sbcEB v => simp only [exec, execSbcEB] at h; refine .inl (readOperand_acts ?_ h); exact fun m s => addWithCarry_kept s _
  | nopImplied c => simp only [exec, execNopImplied] at h; refine .inl (implied_acts ?_ h); exact fun s => Kept.refl s
  | nopOperand c o => simp only [exec, execNopOperand] at h; refine .inl (readOperand_acts ?_ h); exact fun _ s => Kept.refl s
  | jam c => cases h
  | anc c => cases h
  | alr => cases h
  | arr => cases h
  | ane => cases h
  | sha c => cases h
  | tas => cases h
  | shy => cases h
  | shx => cases h
  | lxa => cases h
  | las => cases h
  | sbx => cases h

/-- The four cases of a step that goes on (R150): nothing, a stalling tick, an NMI entry, one instruction. -/
theorem step_cases {s t : State} (h : step s = .next t) :
    (s.run ≠ .running ∧ t = s) ∨
    (s.run = .running ∧ 0 < s.cycles ∧ t = { s with cycles := s.cycles - 1 }) ∨
    (s.run = .running ∧ s.cycles = 0 ∧ s.ppu.nmiPending = true ∧ t = interruptNmi (pollNmi s)) ∨
    (s.Fetches ∧ ∃ u, exec (fetched s) { s with pc := s.pc + 1 } = .next u ∧ t = endTick u) := by
  unfold step tick at h
  split at h
  · next hr => injection h with h; exact .inl ⟨by simp [hr], h.symm⟩
  · next hr => injection h with h; exact .inl ⟨by simp [hr], h.symm⟩
  · next hr =>
    split at h
    · next hc => injection h with h; exact .inr (.inl ⟨hr, hc, h.symm⟩)
    · next hc =>
      split at h
      · next hn => injection h with h; exact .inr (.inr (.inl ⟨hr, by omega, hn, h.symm⟩))
      · next hn =>
        refine .inr (.inr (.inr ⟨⟨hr, by omega, by simpa using hn⟩, ?_⟩))
        unfold runInstruction at h
        split at h
        · cases h
        · cases hx : exec (fetched s) { s with pc := s.pc + 1 } with
          | next u => rw [hx] at h; injection h with h; exact ⟨u, rfl, h.symm⟩
          | fault x => rw [hx] at h; cases h
          | refused x => rw [hx] at h; cases h

end Sys2Proof.Machine
end

