-- ==== Sys2Proof/Tests/Slice0.lean ====
section
/-! SUPPORT. The model's own tests, each about one step: ill-formed terms refused, words decoded, the vectors of 95_test_vectors.md and
the examples of 41 to 49 (none is a result of the model), and for every statement with hypotheses a witness that meets them
together. -/

namespace Sys2Proof.Tests

open Sys2Proof Sys2Proof.Machine

set_option maxRecDepth 20000

/-! ### Helpers -/

/-- The start state of the vectors (95 section 0): `pc` at `$8000`. -/
def start : State := { State.reset with pc := 0x8000 }

/-- RAM with these bytes. -/
def ramOf (cells : List (Nat × Byte)) : Memory := cells.foldl (fun m c => m.write c.1 c.2) []

/-- Do these bytes decode to this instruction, with nothing left? -/
def decodes (bytes : List Byte) (i : Instr) : Bool :=
  match decode bytes with
  | .ok (j, rest) => decide (j = i) && rest.isEmpty
  | .error _ => false

/-- What the instruction of these bytes leaves: A, X, Y, SP, P; `pc`; its cost; these bytes of memory. -/
def outcome (bytes : List Byte) (s : State) (cells : List Addr) : Option (List Byte × Addr × Nat × List Byte) :=
  match decode bytes with
  | .error _ => none
  | .ok (i, _) =>
    match exec i { s with pc := s.pc + 1 } with
    | .next t => some ([t.a, t.x, t.y, t.sp, t.p], t.pc, t.cycles, cells.map (peek t))
    | .fault _ | .refused _ => none

/-- The fault of the instruction of these bytes. -/
def faultOf (bytes : List Byte) (s : State) : Option Fault :=
  match decode bytes with
  | .error _ => none
  | .ok (i, _) =>
    match exec i { s with pc := s.pc + 1 } with
    | .fault f => some f
    | .next _ | .refused _ => none

/-- A property of the next state of an outcome. -/
def nextIs (r : Result) (f : State → Bool) : Bool :=
  match r with
  | .next t => f t
  | .fault _ | .refused _ => false

/-- Does it stop with a fault? -/
def faults (r : Result) : Bool :=
  match r with
  | .fault _ => true
  | .next _ | .refused _ => false

/-- Is it refused? -/
def refuses (r : Result) : Bool :=
  match r with
  | .refused _ => true
  | .next _ | .fault _ => false

/-- The state after a write that goes on. -/
def written (s : State) (a : Addr) (v : Byte) : State :=
  match busWrite s a v with
  | .next t => t
  | .fault _ | .refused _ => s

/-- A PPU in which nothing happened yet. -/
def quietPpu : Ppu := State.reset.ppu

/-! ### WellFormed: an ill-formed term for each check -/

/-- The formats that the Encoding lines of 41 to 46 do not list, and opcode bytes of other rows. -/
theorem test_ill_formed_terms_are_refused :
    ∀ i ∈ ([.lda (.zpy 0), .adc .acc, .sbc (.zpy 0), .and (.zpy 0), .ora .acc, .eor .acc, .cmp (.zpy 0), .ldx (.zpx 0), .ldy (.aby 0),
      .sta (.imm 0), .stx (.zpx 0), .sty (.zpy 0), .cpx (.zpx 0), .cpy (.izy 0), .bit (.imm 0), .inc (.aby 0), .dec .acc, .asl (.imm 0),
      .lsr (.zpy 0), .rol (.izx 0), .ror (.aby 0), .lax (.imm 0), .sax (.izy 0), .dcp (.imm 0), .isb .acc, .slo (.zpy 0), .rla (.imm 0),
      .sre .acc, .rra (.zpy 0), .nopImplied 0xEA, .nopOperand 0x04 (.imm 0), .nopOperand 0x80 (.aby 0), .jam 0x82, .anc 0x4B, .sha 0x9E]
      : List Instr), i.wellFormed = false := by decide

/-! ### Decoding: words written out from the Encoding lines -/

/-- Words of 41 (R190 to R201), their opcode byte written bit by bit from the Encoding lines. -/
theorem test_decode_loads_stores_transfers :
    ∀ q ∈ ([([0b10100001, 0xC5], .lda (.izx 0xC5)), ([0b10111001, 0x34, 0x92], .lda (.aby 0x9234)), ([0b10110110, 0xC5], .ldx (.zpy 0xC5)),
      ([0b10110100, 0xC5], .ldy (.zpx 0xC5)), ([0b10011101, 0x34, 0x92], .sta (.abx 0x9234)), ([0b10001110, 0x34, 0x92], .stx (.abs 0x9234)),
      ([0b10000100, 0xC5], .sty (.zp 0xC5)), ([0b10101010], .tax), ([0b10101000], .tay),
      ([0b10001010], .txa), ([0b10011000], .tya), ([0b10111010], .tsx),
      ([0b10011010], .txs)] : List (List Byte × Instr)),
      decodes q.1 q.2 = true := by decide

/-- Words of 42 (R211 to R226), their opcode byte written bit by bit from the Encoding lines. -/
theorem test_decode_arithmetic_logic :
    ∀ q ∈ ([([0b01110001, 0xC5], .adc (.izy 0xC5)), ([0b11101001, 0xC5], .sbc (.imm 0xC5)), ([0b00111101, 0x34, 0x92], .and (.abx 0x9234)),
      ([0b00001001, 0xC5], .ora (.imm 0xC5)), ([0b01011001, 0x34, 0x92], .eor (.aby 0x9234)), ([0b11010101, 0xC5], .cmp (.zpx 0xC5)),
      ([0b11100000, 0xC5], .cpx (.imm 0xC5)), ([0b11001100, 0x34, 0x92], .cpy (.abs 0x9234)), ([0b00101100, 0x34, 0x92], .bit (.abs 0x9234)),
      ([0b11110110, 0xC5], .inc (.zpx 0xC5)), ([0b11011110, 0x34, 0x92], .dec (.abx 0x9234)), ([0b11101000], .inx),
      ([0b11001000], .iny), ([0b11001010], .dex), ([0b10001000], .dey)] : List (List Byte × Instr)),
      decodes q.1 q.2 = true := by decide

/-- Words of 43 (R241 to R244), their opcode byte written bit by bit from the Encoding lines. -/
theorem test_decode_shifts :
    ∀ q ∈ ([([0b00001010], .asl .acc), ([0b00011110, 0x34, 0x92], .asl (.abx 0x9234)), ([0b01000110, 0xC5], .lsr (.zp 0xC5)),
      ([0b00110110, 0xC5], .rol (.zpx 0xC5)), ([0b01101010], .ror .acc), ([0b01101110, 0x34, 0x92], .ror (.abs 0x9234))] : List (List Byte × Instr)),
      decodes q.1 q.2 = true := by decide

/-- Words of 44 (R251 to R262), their opcode byte written bit by bit from the Encoding lines. -/
theorem test_decode_control_flow :
    ∀ q ∈ ([([0b10010000, 0xFE], .bcc 0xFE), ([0b10110000, 0xFE], .bcs 0xFE), ([0b11110000, 0xFE], .beq 0xFE),
      ([0b11010000, 0xFE], .bne 0xFE), ([0b00110000, 0xFE], .bmi 0xFE), ([0b00010000, 0xFE], .bpl 0xFE),
      ([0b01010000, 0xFE], .bvc 0xFE), ([0b01110000, 0xFE], .bvs 0xFE), ([0b01001100, 0x34, 0x92], .jmp 0x9234),
      ([0b01101100, 0x34, 0x92], .jmpInd 0x9234), ([0b00100000, 0x34, 0x92], .jsr 0x9234), ([0b01100000], .rts)] : List (List Byte × Instr)),
      decodes q.1 q.2 = true := by decide

/-- Words of 45 (R270 to R283), their opcode byte written bit by bit from the Encoding lines. -/
theorem test_decode_stack_flags_system :
    ∀ q ∈ ([([0b01001000], .pha), ([0b00001000], .php), ([0b01101000], .pla),
      ([0b00101000], .plp), ([0b00011000], .clc), ([0b00111000], .sec),
      ([0b01011000], .cli), ([0b01111000], .sei), ([0b10111000], .clv),
      ([0b11011000], .cld), ([0b11111000], .sed), ([0b11101010], .nop),
      ([0b00000000], .brk), ([0b01000000], .rti)] : List (List Byte × Instr)),
      decodes q.1 q.2 = true := by decide

/-- Words of 46 (R301 to R311), their opcode byte written bit by bit from the Encoding lines. -/
theorem test_decode_unofficial :
    ∀ q ∈ ([([0b10110011, 0xC5], .lax (.izy 0xC5)), ([0b10010111, 0xC5], .sax (.zpy 0xC5)), ([0b11011011, 0x34, 0x92], .dcp (.aby 0x9234)),
      ([0b11111111, 0x34, 0x92], .isb (.abx 0x9234)), ([0b00000011, 0xC5], .slo (.izx 0xC5)), ([0b00100111, 0xC5], .rla (.zp 0xC5)),
      ([0b01010111, 0xC5], .sre (.zpx 0xC5)), ([0b01101111, 0x34, 0x92], .rra (.abs 0x9234)), ([0b11101011, 0xC5], .sbcEB 0xC5),
      ([0b11011010], .nopImplied 0xDA), ([0b00001100, 0x34, 0x92], .nopOperand 0x0C (.abs 0x9234)), ([0b00011100, 0x34, 0x92], .nopOperand 0x1C (.abx 0x9234)),
      ([0b10001001, 0xC5], .nopOperand 0x89 (.imm 0xC5))] : List (List Byte × Instr)),
      decodes q.1 q.2 = true := by decide

/-- Words of 46 (R312); no operand byte is taken, their opcode byte written bit by bit from the Encoding lines. -/
theorem test_decode_trapped :
    ∀ q ∈ ([([0b10010010], .jam 0x92), ([0b00101011], .anc 0x2B), ([0b01001011], .alr),
      ([0b01101011], .arr), ([0b10001011], .ane), ([0b10010011], .sha 0x93),
      ([0b10011011], .tas), ([0b10011100], .shy), ([0b10011110], .shx),
      ([0b10101011], .lxa), ([0b10111011], .las), ([0b11001011], .sbx)] : List (List Byte × Instr)),
      decodes q.1 q.2 = true := by decide

/-- No opcode byte, or too few operand bytes (R121). -/
theorem test_decode_truncated :
    decode [] = .error .noBytes ∧ (∀ q ∈ ([[0xA9], [0x8D, 0x00]] : List (List Byte)), (decode q).toOption = none) := by
  exact ⟨rfl, by decide⟩

/-- The host's entry points: `LDA #$42` from the table's numbering of bits, and the step that runs it right after reset. -/
theorem test_table_word : decodeTableWord 16 0x42A9 = some (.lda (.imm 0x42)) ∧ decodeTableWord 8 0x6D = some (.adc (.abs 0)) := by decide

theorem test_fetch_word :
    nextIs (step (State.reset.withFetchWord 16 0x42A9)) (fun t => t.a == 0x42 && t.pc == 0x0002 && t.busCycles == 2 && t.ppu.dot == 6)
      = true := by decide

/-! ### Instructions -/

/-- Vector V8 of 95 (R167). -/
theorem test_lda_izx_pointer_wraps :
    outcome [0xA1, 0xFE] { start with x := 0x01, ram := ramOf [(0x00FF, 0x34), (0x0000, 0x02), (0x0234, 0xAB)] } []
      = some ([0xAB, 0x01, 0x00, 0xFD, 0xA4], 0x8002, 6, []) := by decide

/-- Vector V9 of 95 (R168, R173). -/
theorem test_lda_izy_crosses :
    outcome [0xB1, 0xFF] { start with y := 0x10, ram := ramOf [(0x00FF, 0xF8), (0x0000, 0x02), (0x0308, 0x5A)] } []
      = some ([0x5A, 0x00, 0x10, 0xFD, 0x24], 0x8002, 6, []) := by decide

/-- Vector V10 of 95 (R191, R163). -/
theorem test_ldx_zpy_wraps :
    outcome [0xB6, 0x80] { start with y := 0x90, ram := ramOf [(0x0010, 0xFF)] } []
      = some ([0x00, 0xFF, 0x90, 0xFD, 0xA4], 0x8002, 4, []) := by decide

/-- Vector V11 of 95 (R192). -/
theorem test_ldy_abx_zero :
    outcome [0xBC, 0x10, 0x02] { start with x := 0x05, y := 0x09 } []
      = some ([0x00, 0x05, 0x00, 0xFD, 0x26], 0x8003, 4, []) := by decide

/-- Vector V12 of 95 (R193, R174). -/
theorem test_sta_abx_no_bonus :
    outcome [0x9D, 0xFF, 0x02] { start with a := 0x77, x := 0x01 } [0x0300]
      = some ([0x77, 0x01, 0x00, 0xFD, 0x24], 0x8003, 5, [0x77]) := by decide

/-- Vector V13 of 95 (R193). -/
theorem test_sta_izy :
    outcome [0x91, 0x20] { start with a := 0x66, y := 0xFF, ram := ramOf [(0x0020, 0x01), (0x0021, 0x02)] } [0x0300]
      = some ([0x66, 0x00, 0xFF, 0xFD, 0x24], 0x8002, 6, [0x66]) := by decide

/-- Vector V14 of 95 (R194). -/
theorem test_stx_zpy_wraps :
    outcome [0x96, 0xFF] { start with x := 0x12, y := 0x02 } [0x0001]
      = some ([0x00, 0x12, 0x02, 0xFD, 0x24], 0x8002, 4, [0x12]) := by decide

/-- Vector V15 of 95 (R195). -/
theorem test_sty_keeps_flags :
    outcome [0x84, 0x44] { start with y := 0x80 } [0x0044]
      = some ([0x00, 0x00, 0x80, 0xFD, 0x24], 0x8002, 3, [0x80]) := by decide

/-- Vector V18 of 95 (R196). -/
theorem test_tax :
    outcome [0xAA] { start with a := 0x80 } []
      = some ([0x80, 0x80, 0x00, 0xFD, 0xA4], 0x8001, 2, []) := by decide

/-- Vector V19 of 95 (R201). -/
theorem test_txs_keeps_flags :
    outcome [0x9A] { start with p := 0xA4 } []
      = some ([0x00, 0x00, 0x00, 0x00, 0xA4], 0x8001, 2, []) := by decide

/-- Vector V20 of 95 (R200). -/
theorem test_tsx :
    outcome [0xBA] { start with sp := 0x00, p := 0xA4 } []
      = some ([0x00, 0x00, 0x00, 0x00, 0x26], 0x8001, 2, []) := by decide

/-- Vector V23 of 95 (R211). -/
theorem test_adc_carry_and_overflow :
    outcome [0x69, 0x90] { start with a := 0xD0 } []
      = some ([0x60, 0x00, 0x00, 0xFD, 0x65], 0x8002, 2, []) := by decide

/-- Vector V26 of 95 (R227). -/
theorem test_adc_ignores_decimal :
    outcome [0x69, 0x09] { start with a := 0x09, p := 0x2C } []
      = some ([0x12, 0x00, 0x00, 0xFD, 0x2C], 0x8002, 2, []) := by decide

/-- Vector V28 of 95 (R212). -/
theorem test_sbc_overflow :
    outcome [0xE9, 0xB0] { start with a := 0x50, p := 0x25 } []
      = some ([0xA0, 0x00, 0x00, 0xFD, 0xE4], 0x8002, 2, []) := by decide

/-- Vector V30 of 95 (R212). -/
theorem test_sbc_borrow_in :
    outcome [0xE9, 0x00] start []
      = some ([0xFF, 0x00, 0x00, 0xFD, 0xA4], 0x8002, 2, []) := by decide

/-- Vector V32 of 95 (R213). -/
theorem test_and_zero :
    outcome [0x29, 0x0F] { start with a := 0xF0 } []
      = some ([0x00, 0x00, 0x00, 0xFD, 0x26], 0x8002, 2, []) := by decide

/-- Vector V33 of 95 (R214). -/
theorem test_ora_negative :
    outcome [0x09, 0x80] { start with a := 0x01 } []
      = some ([0x81, 0x00, 0x00, 0xFD, 0xA4], 0x8002, 2, []) := by decide

/-- Vector V34 of 95 (R215). -/
theorem test_eor_zero :
    outcome [0x49, 0xFF] { start with a := 0xFF } []
      = some ([0x00, 0x00, 0x00, 0xFD, 0x26], 0x8002, 2, []) := by decide

/-- Vector V36 of 95 (R217). -/
theorem test_cmp_less :
    outcome [0xC9, 0x41] { start with a := 0x40 } []
      = some ([0x40, 0x00, 0x00, 0xFD, 0xA4], 0x8002, 2, []) := by decide

/-- Vector V37 of 95 (R217). -/
theorem test_cmp_unsigned :
    outcome [0xC9, 0x01] { start with a := 0x81 } []
      = some ([0x81, 0x00, 0x00, 0xFD, 0xA5], 0x8002, 2, []) := by decide

/-- Vector V38 of 95 (R218). -/
theorem test_cpx_equal :
    outcome [0xE0, 0x03] { start with x := 0x03 } []
      = some ([0x00, 0x03, 0x00, 0xFD, 0x27], 0x8002, 2, []) := by decide

/-- Vector V39 of 95 (R219). -/
theorem test_cpy_zp :
    outcome [0xC4, 0x10] { start with ram := ramOf [(0x0010, 0xFF)] } []
      = some ([0x00, 0x00, 0x00, 0xFD, 0x24], 0x8002, 3, []) := by decide

/-- Vector V40 of 95 (R220). -/
theorem test_bit_zp :
    outcome [0x24, 0x10] { start with a := 0x01, ram := ramOf [(0x0010, 0xC0)] } []
      = some ([0x01, 0x00, 0x00, 0xFD, 0xE6], 0x8002, 3, []) := by decide

/-- Vector V43 of 95 (R222). -/
theorem test_dec_wraps :
    outcome [0xC6, 0x10] start [0x0010]
      = some ([0x00, 0x00, 0x00, 0xFD, 0xA4], 0x8002, 5, [0xFF]) := by decide

/-- Vector V44 of 95 (R221, R174). -/
theorem test_inc_abx :
    outcome [0xFE, 0xFF, 0x02] { start with x := 0x01, ram := ramOf [(0x0300, 0x7F)] } [0x0300]
      = some ([0x00, 0x01, 0x00, 0xFD, 0xA4], 0x8003, 7, [0x80]) := by decide

/-- Vector V45 of 95 (R223). -/
theorem test_inx_wraps :
    outcome [0xE8] { start with x := 0xFF } []
      = some ([0x00, 0x00, 0x00, 0xFD, 0x26], 0x8001, 2, []) := by decide

/-- Vector V46 of 95 (R226). -/
theorem test_dey_wraps :
    outcome [0x88] start []
      = some ([0x00, 0x00, 0xFF, 0xFD, 0xA4], 0x8001, 2, []) := by decide

/-- Vector V47 of 95 (R241). -/
theorem test_asl_a :
    outcome [0x0A] { start with a := 0x81 } []
      = some ([0x02, 0x00, 0x00, 0xFD, 0x25], 0x8001, 2, []) := by decide

/-- Vector V48 of 95 (R242). -/
theorem test_lsr_a :
    outcome [0x4A] { start with a := 0x01 } []
      = some ([0x00, 0x00, 0x00, 0xFD, 0x27], 0x8001, 2, []) := by decide

/-- Vector V49 of 95 (R243). -/
theorem test_rol_a :
    outcome [0x2A] { start with a := 0x80, p := 0x25 } []
      = some ([0x01, 0x00, 0x00, 0xFD, 0x25], 0x8001, 2, []) := by decide

/-- Vector V51 of 95 (R244). -/
theorem test_ror_a :
    outcome [0x6A] { start with p := 0x25 } []
      = some ([0x80, 0x00, 0x00, 0xFD, 0xA4], 0x8001, 2, []) := by decide

/-- Vector V52 of 95 (R241). -/
theorem test_asl_zp :
    outcome [0x06, 0x10] { start with ram := ramOf [(0x0010, 0x40)] } [0x0010]
      = some ([0x00, 0x00, 0x00, 0xFD, 0xA4], 0x8002, 5, [0x80]) := by decide

/-- Vector V53 of 95 (R242, R240). -/
theorem test_lsr_abs :
    outcome [0x4E, 0x00, 0x03] { start with a := 0x55, ram := ramOf [(0x0300, 0x01)] } [0x0300]
      = some ([0x55, 0x00, 0x00, 0xFD, 0x27], 0x8003, 6, [0x00]) := by decide

/-- Vector V54 of 95 (R243). -/
theorem test_rol_zpx :
    outcome [0x36, 0x0F] { start with x := 0x01, ram := ramOf [(0x0010, 0x80)] } [0x0010]
      = some ([0x00, 0x01, 0x00, 0xFD, 0x27], 0x8002, 6, [0x00]) := by decide

/-- Vector V55 of 95 (R244). -/
theorem test_ror_abx :
    outcome [0x7E, 0xFF, 0x02] { start with x := 0x01, p := 0x25, ram := ramOf [(0x0300, 0x02)] } [0x0300]
      = some ([0x00, 0x01, 0x00, 0xFD, 0xA4], 0x8003, 7, [0x81]) := by decide

/-- Vector V57 of 95 (R176). -/
theorem test_pha_wraps :
    outcome [0x48] { start with a := 0x42, sp := 0x00 } [0x0100]
      = some ([0x42, 0x00, 0x00, 0xFF, 0x24], 0x8001, 3, [0x42]) := by decide

/-- Vector V58 of 95 (R271). -/
theorem test_php :
    outcome [0x08] { start with p := 0xA5 } [0x01FD]
      = some ([0x00, 0x00, 0x00, 0xFC, 0xA5], 0x8001, 3, [0xB5]) := by decide

/-- Vector V60 of 95 (R177). -/
theorem test_pla_wraps :
    outcome [0x68] { start with sp := 0xFF, ram := ramOf [(0x0100, 0x80)] } []
      = some ([0x80, 0x00, 0x00, 0x00, 0xA4], 0x8001, 4, []) := by decide

/-- Vector V61 of 95 (R273). -/
theorem test_plp_ff :
    outcome [0x28] { start with sp := 0xFC, ram := ramOf [(0x01FD, 0xFF)] } []
      = some ([0x00, 0x00, 0x00, 0xFD, 0xEF], 0x8001, 4, []) := by decide

/-- Vector V63 of 95 (R275). -/
theorem test_sec :
    outcome [0x38] start []
      = some ([0x00, 0x00, 0x00, 0xFD, 0x25], 0x8001, 2, []) := by decide

/-- Vector V64 of 95 (R274). -/
theorem test_clc :
    outcome [0x18] { start with p := 0x25 } []
      = some ([0x00, 0x00, 0x00, 0xFD, 0x24], 0x8001, 2, []) := by decide

/-- Vector V65 of 95 (R280). -/
theorem test_sed :
    outcome [0xF8] start []
      = some ([0x00, 0x00, 0x00, 0xFD, 0x2C], 0x8001, 2, []) := by decide

/-- Vector V66 of 95 (R279). -/
theorem test_cld :
    outcome [0xD8] { start with p := 0x2C } []
      = some ([0x00, 0x00, 0x00, 0xFD, 0x24], 0x8001, 2, []) := by decide

/-- Vector V67 of 95 (R277). -/
theorem test_sei :
    outcome [0x78] { start with p := 0x20 } []
      = some ([0x00, 0x00, 0x00, 0xFD, 0x24], 0x8001, 2, []) := by decide

/-- Vector V68 of 95 (R276). -/
theorem test_cli :
    outcome [0x58] start []
      = some ([0x00, 0x00, 0x00, 0xFD, 0x20], 0x8001, 2, []) := by decide

/-- Vector V69 of 95 (R278). -/
theorem test_clv :
    outcome [0xB8] { start with p := 0x64 } []
      = some ([0x00, 0x00, 0x00, 0xFD, 0x24], 0x8001, 2, []) := by decide

/-- Vector V70 of 95 (R281). -/
theorem test_nop :
    outcome [0xEA] start []
      = some ([0x00, 0x00, 0x00, 0xFD, 0x24], 0x8001, 2, []) := by decide

/-- Vector V71 of 95 (R282). -/
theorem test_brk_interrupt :
    outcome [0x00, 0xFF] { start with p := 0x20, prgRom := [(0x7FFF, 0x90)] } [0x01FD, 0x01FC, 0x01FB]
      = some ([0x00, 0x00, 0x00, 0xFA, 0x24], 0x9000, 7, [0x80, 0x02, 0x30]) := by decide

/-- Vector V72 of 95 (R283). -/
theorem test_rti :
    outcome [0x40] { start with sp := 0xFA, ram := ramOf [(0x01FB, 0xDF), (0x01FC, 0x34), (0x01FD, 0x92)] } []
      = some ([0x00, 0x00, 0x00, 0xFD, 0xEF], 0x9234, 6, []) := by decide

/-- Vector V73 of 95 (R254). -/
theorem test_bne_taken :
    outcome [0xD0, 0x10] start []
      = some ([0x00, 0x00, 0x00, 0xFD, 0x24], 0x8012, 3, []) := by decide

/-- Vector V75 of 95 (R253). -/
theorem test_beq_backward :
    outcome [0xF0, 0xFC] { start with p := 0x26, pc := 0x8010 } []
      = some ([0x00, 0x00, 0x00, 0xFD, 0x26], 0x800E, 3, []) := by decide

/-- Vector V76 of 95 (R251). -/
theorem test_bcc_crosses :
    outcome [0x90, 0xFD] start []
      = some ([0x00, 0x00, 0x00, 0xFD, 0x24], 0x7FFF, 4, []) := by decide

/-- Vector V77 of 95 (R252). -/
theorem test_bcs_crosses :
    outcome [0xB0, 0x7F] { start with p := 0x25, pc := 0x80F0 } []
      = some ([0x00, 0x00, 0x00, 0xFD, 0x25], 0x8171, 4, []) := by decide

/-- Vector V78 of 95 (R256, R250). -/
theorem test_bpl_page_end :
    outcome [0x10, 0x02] { start with pc := 0x80FD } []
      = some ([0x00, 0x00, 0x00, 0xFD, 0x24], 0x8101, 4, []) := by decide

/-- Vector V79 of 95 (R255). -/
theorem test_bmi_to_itself :
    outcome [0x30, 0xFE] { start with p := 0xA4 } []
      = some ([0x00, 0x00, 0x00, 0xFD, 0xA4], 0x8000, 3, []) := by decide

/-- Vector V80 of 95 (R258). -/
theorem test_bvs_ff :
    outcome [0x70, 0xFF] { start with p := 0x64 } []
      = some ([0x00, 0x00, 0x00, 0xFD, 0x64], 0x8001, 3, []) := by decide

/-- Vector V81 of 95 (R257). -/
theorem test_bvc_not_taken :
    outcome [0x50, 0x05] { start with p := 0x64 } []
      = some ([0x00, 0x00, 0x00, 0xFD, 0x64], 0x8002, 2, []) := by decide

/-- Vector V82 of 95 (R259). -/
theorem test_jmp :
    outcome [0x4C, 0x34, 0x92] start []
      = some ([0x00, 0x00, 0x00, 0xFD, 0x24], 0x9234, 3, []) := by decide

/-- Vector V84 of 95 (R260). -/
theorem test_jmp_indirect_page_bug :
    outcome [0x6C, 0xFF, 0x02] { start with ram := ramOf [(0x02FF, 0x80), (0x0200, 0x40), (0x0300, 0x50)] } []
      = some ([0x00, 0x00, 0x00, 0xFD, 0x24], 0x4080, 5, []) := by decide

/-- Vector V85 of 95 (R261). -/
theorem test_jsr :
    outcome [0x20, 0x00, 0x90] start [0x01FD, 0x01FC]
      = some ([0x00, 0x00, 0x00, 0xFB, 0x24], 0x9000, 6, [0x80, 0x02]) := by decide

/-- Vector V87 of 95 (R262, R27). -/
theorem test_rts_wraps :
    outcome [0x60] { start with sp := 0xFF, ram := ramOf [(0x0100, 0xFF), (0x0101, 0xFF)] } []
      = some ([0x00, 0x00, 0x00, 0x01, 0x24], 0x0000, 6, []) := by decide

/-- Vector V88 of 95 (R301). -/
theorem test_lax_zp :
    outcome [0xA7, 0x10] { start with ram := ramOf [(0x0010, 0x8F)] } []
      = some ([0x8F, 0x8F, 0x00, 0xFD, 0xA4], 0x8002, 3, []) := by decide

/-- Vector V89 of 95 (R301). -/
theorem test_lax_izy :
    outcome [0xB3, 0x10] { start with a := 0x05, x := 0x06, y := 0x01, ram := ramOf [(0x0010, 0xFF), (0x0011, 0x02)] } []
      = some ([0x00, 0x00, 0x01, 0xFD, 0x26], 0x8002, 6, []) := by decide

/-- Vector V90 of 95 (R302). -/
theorem test_sax_zp :
    outcome [0x87, 0x10] { start with a := 0xF0, x := 0x3C } [0x0010]
      = some ([0xF0, 0x3C, 0x00, 0xFD, 0x24], 0x8002, 3, [0x30]) := by decide

/-- Vector V91 of 95 (R303). -/
theorem test_dcp :
    outcome [0xC7, 0x10] { start with a := 0x05, ram := ramOf [(0x0010, 0x06)] } [0x0010]
      = some ([0x05, 0x00, 0x00, 0xFD, 0x27], 0x8002, 5, [0x05]) := by decide

/-- Vector V92 of 95 (R304). -/
theorem test_isb :
    outcome [0xE7, 0x10] { start with a := 0x10, p := 0x25, ram := ramOf [(0x0010, 0x0F)] } [0x0010]
      = some ([0x00, 0x00, 0x00, 0xFD, 0x27], 0x8002, 5, [0x10]) := by decide

/-- Vector V93 of 95 (R305). -/
theorem test_slo :
    outcome [0x07, 0x10] { start with a := 0x01, ram := ramOf [(0x0010, 0x81)] } [0x0010]
      = some ([0x03, 0x00, 0x00, 0xFD, 0x25], 0x8002, 5, [0x02]) := by decide

/-- Vector V94 of 95 (R306). -/
theorem test_rla :
    outcome [0x27, 0x10] { start with a := 0xFF, p := 0x25, ram := ramOf [(0x0010, 0x40)] } [0x0010]
      = some ([0x81, 0x00, 0x00, 0xFD, 0xA4], 0x8002, 5, [0x81]) := by decide

/-- Vector V95 of 95 (R307). -/
theorem test_sre :
    outcome [0x47, 0x10] { start with a := 0x01, ram := ramOf [(0x0010, 0x03)] } [0x0010]
      = some ([0x00, 0x00, 0x00, 0xFD, 0x27], 0x8002, 5, [0x01]) := by decide

/-- Vector V96 of 95 (R308). -/
theorem test_rra :
    outcome [0x67, 0x10] { start with a := 0x10, ram := ramOf [(0x0010, 0x03)] } [0x0010]
      = some ([0x12, 0x00, 0x00, 0xFD, 0x24], 0x8002, 5, [0x01]) := by decide

/-- Vector V97 of 95 (R308). -/
theorem test_rra_aby :
    outcome [0x7B, 0xFF, 0x02] { start with a := 0x7F, y := 0x01, p := 0x25 } [0x0300]
      = some ([0xFF, 0x00, 0x01, 0xFD, 0xA4], 0x8003, 7, [0x80]) := by decide

/-- Vector V98 of 95 (R309). -/
theorem test_sbc_eb :
    outcome [0xEB, 0x01] { start with a := 0x03, p := 0x25 } []
      = some ([0x02, 0x00, 0x00, 0xFD, 0x25], 0x8002, 2, []) := by decide

/-- Vector V99 of 95 (R310). -/
theorem test_nop_implied :
    outcome [0x1A] start []
      = some ([0x00, 0x00, 0x00, 0xFD, 0x24], 0x8001, 2, []) := by decide

/-- Vector V100 of 95 (R311). -/
theorem test_nop_abx_bonus :
    outcome [0x1C, 0xFF, 0x02] { start with x := 0x01 } []
      = some ([0x00, 0x01, 0x00, 0xFD, 0x24], 0x8003, 5, []) := by decide

/-- The example of R197. -/
theorem test_tay :
    outcome [0xA8] { start with a := 0xFF } []
      = some ([0xFF, 0x00, 0xFF, 0xFD, 0xA4], 0x8001, 2, []) := by decide

/-- The example of R198. -/
theorem test_txa :
    outcome [0x8A] { start with x := 0x10 } []
      = some ([0x10, 0x10, 0x00, 0xFD, 0x24], 0x8001, 2, []) := by decide

/-- The example of R199. -/
theorem test_tya :
    outcome [0x98] { start with y := 0x80 } []
      = some ([0x80, 0x00, 0x80, 0xFD, 0xA4], 0x8001, 2, []) := by decide

/-- The example of R224. -/
theorem test_iny :
    outcome [0xC8] { start with y := 0x7F } []
      = some ([0x00, 0x00, 0x80, 0xFD, 0xA4], 0x8001, 2, []) := by decide

/-- The example of R225. -/
theorem test_dex :
    outcome [0xCA] { start with x := 0x08 } []
      = some ([0x00, 0x07, 0x00, 0xFD, 0x24], 0x8001, 2, []) := by decide

/-- The example of R257. -/
theorem test_bvc_crosses :
    outcome [0x50, 0x80] start []
      = some ([0x00, 0x00, 0x00, 0xFD, 0x24], 0x7F82, 4, []) := by decide

/-- The note under V71: BRK in halt mode (R282). -/
theorem test_brk_halt :
    nextIs (exec .brk { start with pc := 0x8001, params := { brkMode := .halt } })
      (fun t => t.run == .halted && t.pc == 0x8001 && t.sp == 0xFD && t.cycles == 0) = true := by decide

/-- Vector V17 of 95 (R81, R462), and `EE 00 80` of its section 6: the value read plus 1. -/
theorem test_rom_write :
    faultOf [0x8D, 0x00, 0x80] { start with a := 0x5A } = some (.romWrite 0x8000 0x5A) ∧
    faultOf [0xEE, 0x00, 0x80] { start with prgRom := [(0, 0xEE)] } = some (.romWrite 0x8000 0xEF) := by decide

/-- Vectors V103 to V105 and the other trapped bytes (R312, R463). -/
theorem test_trapped :
    ∀ c ∈ ([0x02, 0x0B, 0xAB, 0x4B, 0x6B, 0x8B, 0x93, 0x9B, 0x9C, 0x9E, 0xBB, 0xCB] : List Byte),
      faultOf [c] start = some (.unknownOpcode c 0x8000) := by decide

/-- The example of R165: `$FFFF` indexed by 1 wraps and crosses. -/
theorem test_absolute_indexed_wraps :
    effective (.abx 0xFFFF) { start with x := 0x01 } = some { addr := 0x0000, crossed := true } := by decide

/-! ### Ticks, bus, PPU -/

/-- The table of 95 section 2.8: an instruction and its stalling ticks (R150, R151). -/
theorem test_stalling :
    nextIs (step { start with cycles := 2, busCycles := 2 }) (fun t => t.cycles == 1 && t.busCycles == 2 && t.pc == 0x8000) = true := by decide

/-- 95 section 5.1: the NMI entry (R470, R473). -/
theorem test_nmi_entry :
    nextIs (step { start with p := 0xE5, prgRom := [(0x7FFB, 0x90)], ppu := { quietPpu with nmiPending := true } })
      (fun t => [t.sp, t.p] == [0xFA, 0xE5] && t.pc == 0x9000 && t.cycles == 7 && t.busCycles == 7 && t.ppu.dot == 21
        && !t.ppu.nmiPending && [peek t 0x01FD, peek t 0x01FC, peek t 0x01FB] == [0x80, 0x00, 0xE5]) = true := by decide

/-- Vectors V107 to V112 and V16 of 95: stub, joypad 2, unmapped, write-only register, RAM mirror. -/
theorem test_bus_map :
    [peek start 0x4015, peek start 0x4017, peek start 0x5000, peek start 0x4018, peek start 0x2000,
      peek (written start 0x1800 0x5A) 0x0000] = [0xFF, 0x00, 0xFF, 0xFF, 0x00, 0x5A] := by decide

/-- Vector V106 of 95 (R79). -/
theorem test_prg_mirror : peek { start with prgRom := [(0, 0xAD)], prgSize := .kib16 } 0xC000 = 0xAD := by decide

/-- 95 section 5.2 (R440, R441). -/
theorem test_joypad :
    let armed := written { start with joypad := { strobe := false, index := 8, buttons := 0x91 } } 0x4016 0x01
    let s := written armed 0x4016 0x00
    [peek armed 0x4016, peek (afterRead armed 0x4016) 0x4016] = [1, 1] ∧
    (List.range 10).map (fun k => peek ((fun q => afterRead q 0x4016)^[k] s) 0x4016) = [1, 0, 0, 0, 1, 0, 0, 1, 1, 1] := by decide

/-- 95 section 5.3 (R348, R436). -/
theorem test_oam_dma :
    let t := oamDma { start with ram := ramOf [(0x200, 0x77), (0x2FF, 0x88)], ppu := { quietPpu with oamAddr := 0x10 } } 0x02
    [t.ppu.oam.read 0x10, t.ppu.oam.read 0x0F, t.ppu.oam.read 0x11, t.ppu.oamAddr] = [0x77, 0x88, 0x00, 0x10] := by decide

/-- 95 section 3.1, steps 12 to 16 (R332, R340 to R344). -/
theorem test_scroll_writes :
    let u := ppuRegWrite (ppuRegWrite (ppuRegWrite { quietPpu with vramAddr := 0x2040, tramAddr := 0x2000 } 0 0x03) 5 0x7D) 5 0x5E
    let w := ppuRegWrite (ppuRegWrite u 5 0xFF) 6 0x21
    (u.tramAddr, u.fineX, u.writeToggle) = (0x6D6F, 5, false) ∧ (w.vramAddr, w.tramAddr, w.fineX) = (0x6D21, 0x6D21, 7) := by decide

/-- 95 section 3.2, steps 21 to 23: the palette alias, the unbuffered read, the grayscale mask. -/
theorem test_palette :
    let u := ppuRegWrite { quietPpu with vramAddr := 0x3F10 } 7 0x2A
    (u.palette.read 0, u.vramAddr) = (0x2A, 0x3F11) ∧
    dataValue { u with vramAddr := 0x3F00 } = 0x2A ∧ dataValue { u with vramAddr := 0x3F20, mask := 0x01 } = 0x20 := by decide

/-- 95 section 3.3, step 29 (R336). -/
theorem test_status_read :
    let u := { quietPpu with verticalBlank := true, spriteZeroHit := true, spriteOverflow := true, dataBuffer := 0x1B, writeToggle := true }
    statusValue u = 0xFB ∧ (readStatus u).status = 0x60 ∧ (readStatus u).writeToggle = false := by decide

/-- 95 section 3.4 (R91). -/
theorem test_mirroring :
    [ntIndex .horizontal 0x2400, ntIndex .horizontal 0x2800, ntIndex .vertical 0x2400, ntIndex .vertical 0x2800, ntIndex .vertical 0x3C00]
      = [0x000, 0x400, 0x400, 0x000, 0x400] := by decide

/-- 95 section 4.1: the dot-0 skip, and the vertical blank at (241, 1). -/
theorem test_dots :
    ((dot true { quietPpu with scanline := 0, dot := 0 }).dot, (dot false { quietPpu with scanline := 0, dot := 0 }).dot) = (2, 1) ∧
    (dot true { quietPpu with scanline := 241, dot := 1 }).status = 0x80 := by decide

/-- 95 section 4.3: sprite 0 at X 4 shows its first pixel on column 4, which hits the opaque background there (R393 to R395). -/
theorem test_sprite_zero_hit :
    let q : SpriteUnit := { y := 0x10, tile := 2, attr := 0, x := 0, shifterLo := 0x80, shifterHi := 0x80 }
    let u := { quietPpu with mask := 0x1E, bgShifterPatternLo := 0xFFFF, sprites := q :: quietPpu.sprites.tail, spriteCount := 1
                             spriteZeroPossible := true, palette := ramOf [(0x13, 0x27)] }
    ((composePixel 17 5 u).spriteZeroHit, (composePixel 17 5 u).frameBuffer) = (true, [(256 * 17 + 4, 0x27)]) := by decide

/-- R393 and R46: the pixel of a staged entry 0 that is not sprite 0 of OAM sets the first bit only. -/
theorem test_sprite_zero_rendered :
    let q : SpriteUnit := { y := 0x10, tile := 2, attr := 0, x := 0, shifterLo := 0x80, shifterHi := 0x80 }
    let u := { quietPpu with mask := 0x1E, sprites := q :: quietPpu.sprites.tail, spriteCount := 1 }
    let w := composePixel 17 5 { u with spriteZeroPossible := true }
    ((composePixel 17 5 u).spriteZeroRendered, (composePixel 17 5 u).spriteZeroChosen, w.spriteZeroRendered, w.spriteZeroChosen)
      = (true, false, true, true) := by decide

/-- 95 section 6: a PRG image of 8 KiB makes no core (R80, R500). -/
theorem test_prg_length : powerOn { prgRom := List.replicate 0x2000 0, chrRom := [], mirroring := .vertical } = .refused (.prgLength 0x2000) := by
  simp only [powerOn, List.length_replicate, PrgSize.ofLength]
  rfl

/-- R15, R32: a position that is none makes no core. -/
theorem test_ppu_position :
    powerOn { prgRom := List.replicate 0x8000 0, chrRom := List.replicate 0x2000 0, mirroring := .vertical, dot := 341 }
      = .refused (.ppuPosition (-1) 341) := by
  simp only [powerOn, List.length_replicate, PrgSize.ofLength]
  rfl

/-! ### Witnesses: states and operands that meet the hypotheses of the statements

The states are `State.reset` and small variations of it. -/

/-- `State.reset` with a program byte or two at `$0000`. -/
def at0 (bytes : List (Nat × Byte)) : State := { State.reset with ram := ramOf bytes }

/-- Every operand form the memory statements speak of has an effective address at reset, some at the ends of the ranges. -/
theorem witness_effective :
    State.reset.Inv ∧
    ∀ q ∈ ([(.imm 1, 0x0000), (.zp 0xFF, 0x00FF), (.zpx 0, 0), (.zpy 0xFF, 0x00FF), (.abs 0x7FFF, 0x7FFF), (.abx 0x8000, 0x8000),
      (.aby 0x1FFF, 0x1FFF), (.izx 0xFF, 0), (.izy 0xFF, 0)] : List (Operand × Addr)),
      effective q.1 State.reset = some { addr := q.2, crossed := false } := by decide

theorem witness_EncodeThenDecode : (Instr.isb (.izy 0xFF)).wellFormed = true := by decide

theorem witness_DecodeThenEncode : decodes [0x8D, 0x14, 0x40] (.sta (.abs 0x4014)) = true ∧ 3 ≤ [0x8D#8, 0x14#8, 0x40#8].length := by decide

/-- Each of its four conclusions: goes on, halts, faults, is refused. -/
theorem witness_StepRunsDecoded :
    (let s := at0 [(0, 0xEA)]
     s.Fetches ∧ s.Holds .nop ∧ s.Fetchable .nop ∧ nextIs (exec .nop { s with pc := s.pc + 1 }) (fun t => t.run == .running) = true) ∧
    (let s := { State.reset with params := { brkMode := .halt } }
     s.Fetches ∧ s.Holds .brk ∧ s.Fetchable .brk ∧ nextIs (exec .brk { s with pc := s.pc + 1 }) (fun t => t.run == .halted) = true) ∧
    (let s := at0 [(0, 0x02)]
     s.Fetches ∧ s.Holds (.jam 0x02) ∧ s.Fetchable (.jam 0x02) ∧ faults (exec (.jam 0x02) { s with pc := s.pc + 1 }) = true) ∧
    (let s := at0 [(0, 0x6C), (1, 0x02), (2, 0x20)]
     s.Fetches ∧ s.Holds (.jmpInd 0x2002) ∧ s.Fetchable (.jmpInd 0x2002) ∧
       refuses (exec (.jmpInd 0x2002) { s with pc := s.pc + 1 }) = true) := by decide

/-- An opcode byte at `$2002`; LDA with its operand byte there, and with the high byte of its operand there; a branch with its operand
byte there, taken and not taken. -/
theorem witness_UnfetchableBytes :
    (let s := { State.reset with pc := 0x2002 }
     s.Fetches ∧ sideEffectRead s.pc = true) ∧
    (let s := { State.reset with pc := 0x2001, params := { ppuWoRead := 0xA9 } }
     s.Fetches ∧ (Instr.lda (.imm 0x00)).wellFormed = true ∧ s.Holds (.lda (.imm 0x00)) ∧ 1 < (encode (.lda (.imm 0x00))).length ∧
       sideEffectRead s.pc = false ∧ sideEffectRead (s.pc + 1) = true ∧ (Instr.lda (.imm 0x00)).displacement = none) ∧
    (let s := { State.reset with pc := 0x2000, params := { ppuWoRead := 0xAD } }
     s.Fetches ∧ (Instr.lda (.abs 0x00AD)).wellFormed = true ∧ s.Holds (.lda (.abs 0x00AD)) ∧ 2 < (encode (.lda (.abs 0x00AD))).length ∧
       sideEffectRead s.pc = false ∧ sideEffectRead (s.pc + 1) = false ∧ sideEffectRead (s.pc + 2) = true) ∧
    (let s := { State.reset with pc := 0x2001, params := { ppuWoRead := 0x90 } }
     s.Fetches ∧ s.Holds (.bcc 0x00) ∧ sideEffectRead s.pc = false ∧ sideEffectRead (s.pc + 1) = true ∧ flagOf s.p .c = false ∧
       flagOf { s with p := 0x25 }.p .c = true) := by decide

theorem witness_StallingAndStoppedTicks :
    (let s := { State.reset with cycles := 1 }
     s.run = .running ∧ 0 < s.cycles) ∧
    ({ State.reset with run := .halted } : State).run ≠ .running := by decide

theorem witness_NmiEntry :
    let s := { State.reset with ppu := { quietPpu with nmiPending := true } }
    s.Inv ∧ s.run = .running ∧ s.cycles = 0 ∧ s.ppu.nmiPending = true := by decide

/-- A report with and without a byte of the host's, and no report. -/
theorem witness_BusTickAdvances :
    (let s := { State.reset with ppu := { quietPpu with scanline := 260, dot := 340 }, hostInputs := [0x01] }
     ppuTickReports s.params.skipDot0 (3 * 1) s.ppu = true ∧ s.hostInputs = 0x01 :: []) ∧
    (let s := { State.reset with ppu := { quietPpu with scanline := 260, dot := 338 } }
     ppuTickReports s.params.skipDot0 (3 * 1) s.ppu = true ∧ s.hostInputs = []) ∧
    ppuTickReports State.reset.params.skipDot0 (3 * 1) State.reset.ppu = false := by decide

theorem witness_TrappedOpcodesFault : ∀ i ∈ ([.jam 0xF2, .anc 0x0B, .sha 0x9F, .sbx] : List Instr), i.wellFormed = true ∧ i.trapped = true ∧ i.opcode.isSome = true := by
  decide

/-- The first address of the ROM window, for a store and for a read-modify-write instruction; and that they do fault there. -/
theorem witness_FaultsOfAdmittedInstructions :
    (let i := Instr.sta (.abs 0x8000)
     i.wellFormed = true ∧ i.trapped = false ∧ i.storesTo = some (.abs 0x8000) ∧
       effective (.abs 0x8000) State.reset = some { addr := 0x8000, crossed := false } ∧ faults (exec i State.reset) = true) ∧
    (let i := Instr.inc (.abs 0x8000)
     i.wellFormed = true ∧ i.trapped = false ∧ faults (exec i State.reset) = true) := by decide

/-- The last address below it, and a pointer on a page end. -/
theorem witness_AdmittedInstructionsComplete :
    (let i := Instr.rra (.abs 0x7FFF)
     i.wellFormed = true ∧ i.trapped = false ∧ i.pointerReadable = true ∧ i.storesTo = some (.abs 0x7FFF) ∧
       effective (.abs 0x7FFF) State.reset = some { addr := 0x7FFF, crossed := false }) ∧
    (let i := Instr.jmpInd 0x02FF
     i.wellFormed = true ∧ i.trapped = false ∧ i.pointerReadable = true ∧ i.storesTo = none) := by decide

theorem witness_CostFollowsTheTable :
    ((Instr.nop).opcode = some 0xEA ∧ nextIs (exec .nop State.reset) (fun t => t.cycles == 2) = true) ∧
    ((Instr.brk).opcode = some 0x00 ∧ nextIs (exec .brk { State.reset with params := { brkMode := .halt } }) (fun t => t.cycles == 0) = true) := by
  decide

/-- The dearest and the cheapest instruction. -/
theorem witness_StepAccountsForTime :
    ((at0 [(0, 0xC3)]).Fetches ∧ nextIs (step (at0 [(0, 0xC3)])) (fun t => t.run == .running && t.cycles == 8) = true) ∧
    nextIs (step (at0 [(0, 0xEA)])) (fun t => t.run == .running && t.cycles == 2) = true := by decide

/-- The ends of the PPU window, and addresses on both sides of it. -/
theorem witness_ReadSideEffects :
    (∀ a ∈ ([0x2002, 0x3FFA] : List Addr), inPpuWindow a ∧ a.toNat % 8 = 2) ∧ (∀ a ∈ ([0x2007, 0x3FFF] : List Addr), inPpuWindow a ∧ a.toNat % 8 = 7) ∧
    (∀ a ∈ ([0x0002, 0x1FFF, 0x2000, 0x4000, 0x4017, 0xFFFF] : List Addr), ¬ (inPpuWindow a ∧ (a.toNat % 8 = 2 ∨ a.toNat % 8 = 7)) ∧ a ≠ 0x4016) := by
  simp [inPpuWindow]

/-- The read, store, modify and shift statements: their forms are well formed; the addresses are those of `witness_effective`, the
stores on both sides of `$8000`. -/
theorem witness_memory_instructions :
    ∀ i ∈ ([.lda (.imm 1), .ldx (.zpy 0xFF), .ldy (.zp 0xFF), .lax (.aby 0x1FFF), .sta (.abs 0x7FFF), .sta (.abx 0x8000), .stx (.zpy 0xFF), .sty (.zpx 0),
      .sax (.izx 0xFF), .adc (.izy 0xFF), .sbc (.imm 1), .sbcEB 1, .and (.izx 0xFF), .ora (.abs 0x7FFF), .eor (.zp 0xFF), .cmp (.aby 0x1FFF),
      .cpx (.imm 1), .cpy (.zp 0xFF), .bit (.abs 0x7FFF), .inc (.abs 0x7FFF), .dec (.zp 0xFF), .asl (.zp 0xFF), .lsr (.abs 0x7FFF), .rol (.zpx 0),
      .ror (.zp 0xFF), .dcp (.izy 0xFF), .isb (.abs 0x7FFF), .slo (.zp 0xFF), .rla (.aby 0x1FFF), .sre (.izx 0xFF), .rra (.zpx 0), .nopOperand 0x0C (.abs 0x7FFF),
      .nopImplied 0x1A] : List Instr), i.wellFormed = true := by decide

/-- The statements about instructions of one shape range over lists: a member of each, at a state that meets the rest. -/
theorem witness_RegisterInstructions (s : State) :
    (Instr.tax, (0xAA : Byte), (s.a, s.a, s.y, s.sp), s.a) ∈
      ([(.tax, 0xAA, (s.a, s.a, s.y, s.sp), s.a), (.tay, 0xA8, (s.a, s.x, s.a, s.sp), s.a),
        (.txa, 0x8A, (s.x, s.x, s.y, s.sp), s.x), (.tya, 0x98, (s.y, s.x, s.y, s.sp), s.y),
        (.tsx, 0xBA, (s.a, s.sp, s.y, s.sp), s.sp), (.txs, 0x9A, (s.a, s.x, s.y, s.x), s.x),
        (.inx, 0xE8, (s.a, s.x + 1, s.y, s.sp), s.x + 1), (.iny, 0xC8, (s.a, s.x, s.y + 1, s.sp), s.y + 1),
        (.dex, 0xCA, (s.a, s.x - 1, s.y, s.sp), s.x - 1), (.dey, 0x88, (s.a, s.x, s.y - 1, s.sp), s.y - 1)]
        : List (Instr × Byte × (Byte × Byte × Byte × Byte) × Byte)) := List.mem_cons_self

theorem witness_CompareAndBitInstructions (s : State) : (Instr.cpy (.zp 0xFF), s.y) ∈
    ([(.cmp (.zp 0xFF), s.a), (.cpx (.zp 0xFF), s.x), (.cpy (.zp 0xFF), s.y)] : List (Instr × Byte)) := by simp

theorem witness_FlagInstructions :
    (Instr.sed, (0xF8 : Byte), Flag.d, true) ∈
      ([(.clc, 0x18, .c, false), (.sec, 0x38, .c, true), (.cli, 0x58, .i, false), (.sei, 0x78, .i, true),
        (.clv, 0xB8, .v, false), (.cld, 0xD8, .d, false), (.sed, 0xF8, .d, true)] : List (Instr × Byte × Flag × Bool)) := by decide

theorem witness_ShiftAccumulator :
    let s := { State.reset with a := 0x81, p := 0x25 }
    (Instr.ror .acc, 0xC0, true) ∈ ([(.asl .acc, 0x02, true), (.lsr .acc, 0x40, true), (.rol .acc, 0x03, true), (.ror .acc, 0xC0, true)]
      : List (Instr × Nat × Bool)) ∧ s.a.toNat / 2 + 128 * (flagOf s.p .c).toNat = 0xC0 ∧ s.a.getLsbD 0 = true := by decide

theorem witness_FusionRule :
    State.reset.Inv ∧ (Instr.rra (.zp 0xFF), Instr.ror (.zp 0xFF), Instr.adc (.zp 0xFF))
      ∈ ([(.dcp (.zp 0xFF), .dec (.zp 0xFF), .cmp (.zp 0xFF)), (.isb (.zp 0xFF), .inc (.zp 0xFF), .sbc (.zp 0xFF)),
        (.slo (.zp 0xFF), .asl (.zp 0xFF), .ora (.zp 0xFF)), (.rla (.zp 0xFF), .rol (.zp 0xFF), .and (.zp 0xFF)),
        (.sre (.zp 0xFF), .lsr (.zp 0xFF), .eor (.zp 0xFF)), (.rra (.zp 0xFF), .ror (.zp 0xFF), .adc (.zp 0xFF)),
        (.lax (.zp 0xFF), .lda (.zp 0xFF), .tax)] : List (Instr × Instr × Instr)) := by decide

/-- Both modes of BRK. -/
theorem witness_Break :
    State.reset.Inv ∧ State.reset.params.brkMode = .interrupt ∧
    (let s := { State.reset with params := { brkMode := .halt } }
     s.Inv ∧ s.params.brkMode = .halt) := by decide

/-- Three words to push. -/
theorem witness_StackWords : State.reset.Inv ∧ (push16 (push16 (push16 State.reset 0xCAFE) 0xAABB) 0xCCDD).sp = 0xF7 := by decide

/-- A branch that is taken and one that is not, from one state. -/
theorem witness_Branches : (!flagOf State.reset.p .c) = true ∧ flagOf State.reset.p .c = false ∧ flagOf { State.reset with p := 0x25 }.p .c = true := by decide

/-- Readable pointers, one on a page end, and an unreadable byte in either place. -/
theorem witness_Jumps :
    (pointerHigh 0x02FF = 0x0200 ∧ sideEffectRead 0x02FF = false ∧ sideEffectRead 0x0200 = false) ∧
    (pointerHigh 0x4016 = 0x4017 ∧ sideEffectRead 0x4016 = true) ∧
    (pointerHigh 0x2001 = 0x2002 ∧ sideEffectRead 0x2001 = false ∧ sideEffectRead 0x2002 = true) := by decide

/-- A JSR in ROM, and one whose pushes write the cells of its own operand. -/
theorem witness_SubroutineCallAndReturn :
    (let s := { start with pc := 0x8001 }
     let t := push16 s (s.pc + 1)
     s.Inv ∧ peek t s.pc = peek s s.pc ∧ peek t (s.pc + 1) = peek s (s.pc + 1)) ∧
    (let s := { State.reset with pc := 0x01FC, ram := ramOf [(0x1FC, 0x34), (0x1FD, 0x12)] }
     s.Inv ∧ peek s s.pc = loByte 0x1234 ∧ peek s (s.pc + 1) = hiByte 0x1234 ∧ peek (push16 s (s.pc + 1)) s.pc = 0xFD) := by decide

theorem witness_PushAndPullInstructions : State.reset.Inv ∧ (Instr.php, (0x08 : Byte), State.reset.p ||| 0x30) ∈
    ([(.pha, 0x48, State.reset.a), (.php, 0x08, State.reset.p ||| 0x30)] : List (Instr × Byte × Byte)) := by
  decide

theorem witness_ReturnsUndoEntries :
    State.reset.Inv ∧ State.reset.params.pcAdvanceByValueCompare = false ∧ withoutBreak State.reset.p = 0x24 ∧ pushedWithBreak State.reset.p = 0x34 := by
  decide

/-- The last RAM address of a word, and its second byte. -/
theorem witness_WordRoundTrip :
    State.reset.Inv ∧ (0x1FFE : Addr) ≤ 0x1FFE ∧ ¬ sameRamCell 0x0000 0x1FFE ∧ ¬ sameRamCell 0x0000 (0x1FFE + 1) := by decide

/-- The ends of every region, and both image sizes. -/
theorem witness_ReadsByRegion :
    ((0x1FFF : Addr) ≤ 0x1FFF ∧ inPpuWindow 0x2000 ∧ inPpuWindow 0x3FFF) ∧ ((0x4000 : Addr) ≤ 0x4000 ∧ (0x4015 : Addr) ≤ 0x4015) ∧
    ((0x4018 : Addr) ≤ 0x4018 ∧ (0x7FFF : Addr) ≤ 0x7FFF) ∧ (0x8000 : Addr) ≤ 0xFFFF ∧ State.reset.prgSize = .kib32 ∧
    ({ State.reset with prgSize := .kib16 } : State).prgSize = .kib16 := by decide

theorem witness_OamDmaCopiesAPage : State.reset.Inv ∧ (0x1F : Byte) < 0x20 ∧ 0x40 < (0x41 : Byte) := by decide

theorem witness_JoypadProtocol : (0x01 : Byte).getLsbD 0 = true ∧ (0xFE : Byte).getLsbD 0 = false := by decide

theorem witness_PpuRegisterReads : ∀ a ∈ ([0x2000, 0x2001, 0x2002, 0x2003, 0x3FFC, 0x3FFD, 0x3FFE, 0x3FFF] : List Addr), inPpuWindow a := by
  simp [inPpuWindow]

theorem witness_PpuRegisterWrites : quietPpu.Inv ∧ quietPpu.writeToggle = false := by decide

/-- Both ends of the three regions, and pairs of addresses in and out of one cell. -/
theorem witness_PpuMemoryReadAfterWrite :
    quietPpu.Inv ∧ quietPpu.mirroring = .horizontal ∧ (0x1FFF : PpuAddr) < 0x2000 ∧ ((0x2000 : PpuAddr) ≤ 0x3EFF ∧ (0x3EFF : PpuAddr) < 0x3F00) ∧
    sameNameTableCell quietPpu.mirroring 0x2000 0x3400 ∧ ¬ sameNameTableCell quietPpu.mirroring 0x2000 0x2800 ∧ (0x3F00 : PpuAddr) ≤ 0x3FFF ∧
    samePaletteCell 0x3F10 0x3FE0 ∧ ¬ samePaletteCell 0x3F11 0x3F01 := by
  simp [sameNameTableCell, samePaletteCell, quietPpu, State.reset, Ppu.atPowerOn]
  decide

/-- A PPU at the start of a frame, with the NMI enabled and not. -/
theorem witness_FrameLength :
    (quietPpu.scanline = -1 ∧ quietPpu.dot = 0 ∧ quietPpu.control.getLsbD 7 = false) ∧
    ({ quietPpu with control := 0x80 } : Ppu).control.getLsbD 7 = true := by decide

theorem witness_VerticalBlank :
    (let u := { quietPpu with scanline := 241, dot := 1 }
     u.scanline = 241 ∧ u.dot = 1) ∧
    (let u := { quietPpu with dot := 1 }
     u.scanline = -1 ∧ u.dot = 1) ∧ ¬ (quietPpu.scanline = 241 ∧ quietPpu.dot = 1) := by decide

theorem witness_DotKeepsPortAndMemory :
    (quietPpu.mask.getLsbD 3 = false ∧ quietPpu.mask.getLsbD 4 = false) ∧ 239 < ({ quietPpu with scanline := 240 } : Ppu).scanline := by decide

/-- Rendering off and on; every case of the schedule, and the dot-0 skip. -/
theorem witness_ScrollCounters :
    (quietPpu.rendering = false ∧ ({ quietPpu with mask := 0x10 } : Ppu).rendering = true) ∧
    (fetchLine quietPpu ∧ fetchLine { quietPpu with scanline := 239 } ∧ ¬ fetchLine { quietPpu with scanline := 240 }) ∧
    (fetchDot 8 ∧ 8 % 8 = 0 ∧ fetchDot 336 ∧ ¬ fetchDot 320 ∧ ¬ fetchDot 338) ∧
    (dotNumber true { quietPpu with scanline := 0 } = 1 ∧ dotNumber false { quietPpu with scanline := 0 } = 0) := by decide

/-- The first and the last scanline that evaluates, and the dot of the evaluation on a line that does not. -/
theorem witness_SpriteEvaluation :
    (∀ s ∈ ([-1, 239] : List Int), -1 ≤ ({ quietPpu with scanline := s, dot := 257 } : Ppu).scanline ∧
      ({ quietPpu with scanline := s, dot := 257 } : Ppu).scanline ≤ 239 ∧ ({ quietPpu with scanline := s, dot := 257 } : Ppu).dot = 257) ∧
    (let u := { quietPpu with scanline := 240, dot := 257 }
     ¬ (fetchLine u ∧ u.dot = 257)) := by decide

/-- A staged sprite: at `(-1, 1)`, on a dot that steps it, on an idle line, and at dot 340 with its last row, in both sizes. -/
theorem witness_SpriteUnits :
    let q : SpriteUnit := { y := 0x10, tile := 0x21, attr := 0xC0, x := 3, shifterLo := 0, shifterHi := 0 }
    let u := { quietPpu with mask := 0x10, sprites := q :: quietPpu.sprites.tail, spriteCount := 1 }
    u.Inv ∧ u.sprites[0]? = some q ∧
    (fetchLine u ∧ dotNumber true { u with dot := 1 } = 1) ∧ (dotNumber true { u with scanline := 0, dot := 2 } = 2) ∧
    ¬ fetchLine { u with scanline := 240 } ∧
    (let v := { u with scanline := 0x17, dot := 340 }
     v.Inv ∧ fetchLine v ∧ dotNumber true v = 340 ∧ ((7 : Nat) : Int) = v.scanline - q.y.toNat ∧ v.control.getLsbD 5 = false) ∧
    (let v := { u with scanline := 0x1F, dot := 340, control := 0x20 }
     v.Inv ∧ fetchLine v ∧ ((15 : Nat) : Int) = v.scanline - q.y.toNat ∧ v.control.getLsbD 5 = true) := by decide

/-- The corners of the picture, and the last dot of a frame. -/
theorem witness_PixelComposition :
    (let u := { quietPpu with scanline := 0, dot := 1 }
     u.Inv ∧ 0 ≤ u.scanline ∧ 1 ≤ dotNumber true u) ∧
    (let u := { quietPpu with scanline := 239, dot := 256 }
     u.Inv ∧ u.scanline ≤ 239 ∧ dotNumber true u ≤ 256) ∧
    (let u := { quietPpu with scanline := 260, dot := 340 }
     u.Inv ∧ u.scanline = 260 ∧ dotNumber true u = 340) := by decide

/-- Cartridges of both admitted PRG sizes and of a size that is not, CHR images likewise, and positions at and past the ends. -/
theorem witness_PowerOnAndReset :
    (let c : Setup := { prgRom := [], chrRom := [], mirroring := .vertical, scanline := 260, dot := 340 }
     c.scanline ≤ 260 ∧ -1 ≤ c.scanline ∧ c.dot ≤ 340 ∧ ¬ (-1 ≤ c.scanline + 1 ∧ c.scanline + 1 ≤ 260 ∧ c.dot ≤ 340)) ∧
    (List.replicate 0x4000 (0 : Byte)).length = 0x4000 ∧ (List.replicate 0x8000 (0 : Byte)).length = 0x8000 ∧
    (List.replicate 0x2000 (0 : Byte)).length = 0x2000 ∧ ([] : List Byte).length ≠ 0x4000 ∧ ([] : List Byte).length ≠ 0x8000 ∧
    ([] : List Byte).length ≠ 0x2000 := by
  simp only [List.length_replicate, List.length_nil]
  decide

/-- A step from the reset state that goes on, and one that halts. -/
theorem witness_steps :
    (State.reset.Inv ∧ nextIs (step State.reset) (fun t => t.run == .running) = true) ∧
    nextIs (step { State.reset with params := { brkMode := .halt } }) (fun t => t.run == .halted) = true ∧
    nextIs (exec .nop State.reset) (fun _ => true) = true := by decide

end Sys2Proof.Tests
end

section
/-! The CPU's memory map (20_memory): the equations of a bus access region by region, and the statements about reads. -/

namespace Sys2Proof.Machine

/-! ### The PPU window (R76, R330, R335) -/

/-- The mirrors repeat every 8 bytes (R76). -/
theorem ppuRegister_toNat (a : Addr) : (ppuRegister a).toNat = a.toNat % 8 := by
  rw [ppuRegister, BitVec.extractLsb'_toNat, Nat.shiftRight_zero]

theorem ppuRegister_eq_iff (a : Addr) (r : BitVec 3) : ppuRegister a = r ↔ a.toNat % 8 = r.toNat := by
  rw [← BitVec.toNat_inj, ppuRegister_toNat]

theorem not_ram_of_inPpuWindow {a : Addr} (h : inPpuWindow a) : ¬ a ≤ 0x1FFF#16 := by
  have hlow := h.1
  bv_omega

theorem peek_inPpuWindow (s : State) {a : Addr} (h : inPpuWindow a) :
    peek s a = ppuRegValue s.params.ppuWoRead s.ppu (ppuRegister a) := by
  rw [peek, if_neg (not_ram_of_inPpuWindow h), if_pos h.2]

theorem afterRead_inPpuWindow (s : State) {a : Addr} (h : inPpuWindow a) :
    afterRead s a = { s with ppu := ppuRegAfterRead s.ppu (ppuRegister a) } := by
  rw [afterRead, if_neg (not_ram_of_inPpuWindow h), if_pos h.2]

theorem busWrite_inPpuWindow (s : State) {a : Addr} (h : inPpuWindow a) (v : Byte) :
    busWrite s a v = .next { s with ppu := ppuRegWrite s.ppu (ppuRegister a) v } := by
  rw [busWrite, if_neg (not_ram_of_inPpuWindow h), if_pos h.2]

/-- Addresses of the window with one register number answer alike, to reads and to writes (R76). -/
theorem inPpuWindow_mirror (s : State) {a r : Addr} (ha : inPpuWindow a) (hr : inPpuWindow r) (h : ppuRegister a = ppuRegister r) :
    peek s a = peek s r ∧ afterRead s a = afterRead s r ∧ ∀ v, busWrite s a v = busWrite s r v := by
  refine ⟨?_, ?_, fun v => ?_⟩
  · rw [peek_inPpuWindow s ha, peek_inPpuWindow s hr, h]
  · rw [afterRead_inPpuWindow s ha, afterRead_inPpuWindow s hr, h]
  · rw [busWrite_inPpuWindow s ha, busWrite_inPpuWindow s hr, h]

/-- The first mirror, `$2000` to `$2007`, of an address of the window (R76). -/
def firstMirror (a : Addr) : Addr := BitVec.ofNat 16 (0x2000 + a.toNat % 8)

theorem firstMirror_toNat (a : Addr) : (firstMirror a).toNat = 0x2000 + a.toNat % 8 := by
  rw [firstMirror, BitVec.toNat_ofNat]
  omega

theorem inPpuWindow_firstMirror (a : Addr) : inPpuWindow (firstMirror a) := by
  have h := firstMirror_toNat a
  constructor <;> bv_omega

theorem ppuRegister_firstMirror (a : Addr) : ppuRegister a = ppuRegister (firstMirror a) := by
  rw [ppuRegister_eq_iff, ppuRegister_toNat, firstMirror_toNat]
  omega

/-! ### The other regions (R77 to R79) -/

/-- The stub registers (R77). -/
theorem peek_stub (s : State) {a : Addr} (hlo : 0x4000#16 ≤ a) (hhi : a ≤ 0x4015#16) : peek s a = 0xFF := by
  have hram : ¬ a ≤ 0x1FFF#16 := by bv_omega
  have hppu : ¬ a ≤ 0x3FFF#16 := by bv_omega
  have hjoy1 : a ≠ 0x4016#16 := by bv_omega
  have hjoy2 : a ≠ 0x4017#16 := by bv_omega
  have hstub : a ≤ 0x4017#16 := by bv_omega
  rw [peek, if_neg hram, if_neg hppu, if_neg hjoy1, if_neg hjoy2, if_pos hstub]

/-- The range that nothing answers (R78). -/
theorem peek_unmapped (s : State) {a : Addr} (hlo : 0x4018#16 ≤ a) (hhi : a ≤ 0x7FFF#16) : peek s a = s.params.unmappedRead := by
  have hram : ¬ a ≤ 0x1FFF#16 := by bv_omega
  have hppu : ¬ a ≤ 0x3FFF#16 := by bv_omega
  have hjoy1 : a ≠ 0x4016#16 := by bv_omega
  have hjoy2 : a ≠ 0x4017#16 := by bv_omega
  have hstub : ¬ a ≤ 0x4017#16 := by bv_omega
  rw [peek, if_neg hram, if_neg hppu, if_neg hjoy1, if_neg hjoy2, if_neg hstub, if_pos hhi]

/-- A 32 KiB image fills the ROM window once: the reduction by its length changes no offset (R79). -/
theorem prgOffset_kib32 (a : Addr) : prgOffset .kib32 a = a.toNat - 0x8000 :=
  Nat.mod_eq_of_lt (by have := a.isLt; simp only [PrgSize.bytes]; omega)

/-! ### What a read changes (R86) -/

/-- The addresses of R86's table: Status and Data with their mirrors, and joypad 1. -/
theorem sideEffectRead_iff (a : Addr) :
    sideEffectRead a = true ↔ (inPpuWindow a ∧ (a.toNat % 8 = 2 ∨ a.toNat % 8 = 7)) ∨ a = 0x4016#16 := by
  simp [sideEffectRead, ppuRegister_eq_iff, and_assoc]

/-- A read of Data: the buffer is reloaded from where the pointer stood, and the pointer steps by 1 or 32 (R346, R347). -/
theorem readData_eq (u : Ppu) :
    readData u = { u with
      dataBuffer := ppuRead u (u.vramAddr.setWidth 14)
      vramAddr := BitVec.ofNat 15 (u.vramAddr.toNat + if u.control.getLsbD 2 then 32 else 1) } := by
  have step : u.vramAddr + (if u.incrementMode then 32 else 1)
      = BitVec.ofNat 15 (u.vramAddr.toNat + if u.control.getLsbD 2 then 32 else 1) := by
    rw [Ppu.incrementMode]
    cases u.control.getLsbD 2 <;> simp [BitVec.ofNat_add]
  rw [← step]
  rfl

/-- A read of joypad 1 advances the index while the strobe is off and a button is left to report (R441). -/
theorem joypadAfterRead_eq (j : Joypad) :
    joypadAfterRead j = { j with index := if j.strobe = true ∨ 7 < j.index then j.index else j.index + 1 } := by
  by_cases hend : 7 < j.index
  · rw [joypadAfterRead, if_pos hend, if_pos (.inr hend)]
  · by_cases hstrobe : j.strobe = true
    · rw [joypadAfterRead, if_neg hend, if_pos hstrobe, if_pos (.inl hstrobe)]
    · rw [joypadAfterRead, if_neg hend, if_neg hstrobe, if_neg (not_or_intro hstrobe hend)]

theorem afterRead_joypad1 (s : State) : afterRead s 0x4016#16 = { s with joypad := joypadAfterRead s.joypad } := rfl

/-- Settles O15: R86's table has three lines, and each is the side effect of one device. -/
theorem readSideEffects : Obligations.ReadSideEffects := by
  intro s a
  refine ⟨fun hport hjoy => ?_, fun hwin h2 => ?_, fun hwin h7 => ?_, ?_⟩
  · have hquiet : ¬ sideEffectRead a = true := fun h => ((sideEffectRead_iff a).mp h).elim hport hjoy
    exact afterRead_of_no_effect (Bool.eq_false_iff.mpr hquiet)
  · have hreg : ppuRegister a = 2 := (ppuRegister_eq_iff a 2).mpr h2
    rw [afterRead_inPpuWindow s hwin, hreg]
    rfl
  · have hreg : ppuRegister a = 7 := (ppuRegister_eq_iff a 7).mpr h7
    have hdata : ppuRegAfterRead s.ppu 7 = readData s.ppu := rfl
    rw [afterRead_inPpuWindow s hwin, hreg, hdata, readData_eq]
  · rintro rfl
    rw [afterRead_joypad1, joypadAfterRead_eq]

/-- Settles O38: one lemma per region; the PPU window through the first mirror of its address. -/
theorem readsByRegion : Obligations.ReadsByRegion := by
  intro s a
  refine ⟨peek_ram, fun hwin => ?_, peek_stub s, ?_, peek_unmapped s, fun hrom hsize => ?_, fun hrom hsize => ?_⟩
  · exact ⟨firstMirror a, firstMirror_toNat a, inPpuWindow_mirror s hwin (inPpuWindow_firstMirror a) (ppuRegister_firstMirror a)⟩
  · rintro rfl
    rfl
  · rw [peek_rom hrom, hsize, prgOffset_kib32]
  · rw [peek_rom hrom, hsize]
    rfl

end Sys2Proof.Machine
end

section
/-! Transfers and register increments and decrements (41 R196 to R201, 42 R223 to R226): one byte, one register write, two cycles. -/

namespace Sys2Proof.Machine

/-- A one-byte instruction whose meaning writes the register file only: no operand byte to advance past (R156), a cost of two (R155). -/
theorem implied_writes {f : State → State} {s : State} {a x y sp p : Byte}
    (hf : f s = { s with a := a, x := x, y := y, sp := sp, p := p }) :
    ∃ t, implied f s = .next t ∧ t.registers = (a, x, y, sp) ∧ t.p = p ∧ Quiet s t ∧ t.pc = s.pc ∧ t.cycles = s.cycles + 2 := by
  refine ⟨complete 1 2 (f s), rfl, ?_⟩
  rw [hf]
  exact ⟨rfl, rfl, quiet_of ⟨rfl, rfl, rfl, rfl, rfl, rfl⟩ rfl rfl rfl rfl, BitVec.add_zero _, rfl⟩

/-- Such a write to A, X or Y sets Z and N of the value (R30); `code` is the instruction's one byte. -/
theorem exec_writes_zn {i : Instr} {f : State → State} {s : State} {code a x y sp v : Byte} (hcode : encode i = [code])
    (hexec : exec i s = implied f s) (htxs : i ≠ .txs) (hf : f s = { s with a := a, x := x, y := y, sp := sp, p := zn s.p v }) :
    encode i = [code] ∧
    ∃ t, exec i s = .next t ∧ t.registers = (a, x, y, sp) ∧ (i ≠ .txs → SetsZN s.p t.p v) ∧ (i = .txs → t.p = s.p) ∧
      Quiet s t ∧ t.pc = s.pc ∧ t.cycles = s.cycles + 2 := by
  obtain ⟨t, hnext, hregs, hp, hframe⟩ := implied_writes hf
  refine ⟨hcode, t, hexec.trans hnext, hregs, fun _ => ?_, fun h => absurd h htxs, hframe⟩
  rw [hp]
  exact zn_sets s.p v

/-- Settles O18: nine of the ten write A, X or Y and are `exec_writes_zn`; TXS writes SP, which leaves the flags alone. -/
theorem registerInstructions : Obligations.RegisterInstructions := by
  intro s i code r v h
  simp only [List.mem_cons, List.not_mem_nil, or_false, Prod.mk.injEq] at h
  rcases h with tax | tay | txa | tya | tsx | txs | inx | iny | dex | dey
  · obtain ⟨rfl, rfl, rfl, rfl⟩ := tax
    exact exec_writes_zn (f := fun s => s.writeX s.a) rfl rfl nofun rfl
  · obtain ⟨rfl, rfl, rfl, rfl⟩ := tay
    exact exec_writes_zn (f := fun s => s.writeY s.a) rfl rfl nofun rfl
  · obtain ⟨rfl, rfl, rfl, rfl⟩ := txa
    exact exec_writes_zn (f := fun s => s.writeA s.x) rfl rfl nofun rfl
  · obtain ⟨rfl, rfl, rfl, rfl⟩ := tya
    exact exec_writes_zn (f := fun s => s.writeA s.y) rfl rfl nofun rfl
  · obtain ⟨rfl, rfl, rfl, rfl⟩ := tsx
    exact exec_writes_zn (f := fun s => s.writeX s.sp) rfl rfl nofun rfl
  · obtain ⟨rfl, rfl, rfl, rfl⟩ := txs
    obtain ⟨t, hnext, hregs, hp, hframe⟩ := implied_writes (f := fun s => s.writeSp s.x) (s := s) rfl
    exact ⟨rfl, t, hnext, hregs, fun h => absurd rfl h, fun _ => hp, hframe⟩
  · obtain ⟨rfl, rfl, rfl, rfl⟩ := inx
    exact exec_writes_zn (f := fun s => s.writeX (s.x + 1)) rfl rfl nofun rfl
  · obtain ⟨rfl, rfl, rfl, rfl⟩ := iny
    exact exec_writes_zn (f := fun s => s.writeY (s.y + 1)) rfl rfl nofun rfl
  · obtain ⟨rfl, rfl, rfl, rfl⟩ := dex
    exact exec_writes_zn (f := fun s => s.writeX (s.x - 1)) rfl rfl nofun rfl
  · obtain ⟨rfl, rfl, rfl, rfl⟩ := dey
    exact exec_writes_zn (f := fun s => s.writeY (s.y - 1)) rfl rfl nofun rfl

end Sys2Proof.Machine
end

section
/-! The stack and flag instructions (45 R270 to R280): one byte pushed or pulled, or one flag written, and the cost. -/

namespace Sys2Proof.Machine

/-- `Pushed` speaks of the stack pointer and of what addresses read, and of nothing else of the later state. -/
theorem Pushed.of_peek {s t u : State} {bytes : List Byte} (h : Pushed s t bytes) (hsp : u.sp = t.sp)
    (hpeek : ∀ a, peek u a = peek t a) : Pushed s u bytes := by
  obtain ⟨hptr, hcells, hrest⟩ := h
  exact ⟨hsp.trans hptr, fun k v hk => (hpeek _).trans (hcells k v hk), fun a ha => (hpeek a).trans (hrest a ha)⟩

@[simp] theorem peek_complete (length cost : Nat) (s : State) (a : Addr) : peek (complete length cost s) a = peek s a :=
  peek_congr rfl rfl rfl rfl rfl rfl a

/-- A one-byte instruction that makes one push (R176): the byte in its cell, the stack pointer, and the cost. -/
theorem exec_pushes {i : Instr} {s : State} {v : Byte} (hinv : s.Inv) (hexec : exec i s = .next (complete 1 3 (push8 s v))) :
    ∃ t, exec i s = .next t ∧ t.cycles = s.cycles + 3 ∧ Pushed s t [v] ∧ t.registers = (s.a, s.x, s.y, t.sp) ∧ t.p = s.p ∧
      t.ppu = s.ppu ∧ t.joypad = s.joypad ∧ SameHost s t ∧ t.run = s.run ∧ t.pc = s.pc := by
  obtain ⟨⟨hwf, -⟩, -⟩ := hinv
  have hpushed : Pushed s (complete 1 3 (push8 s v)) [v] := (pushed1 hwf v).of_peek rfl (peek_complete 1 3 _)
  exact ⟨_, hexec, rfl, hpushed, rfl, rfl, rfl, rfl, ⟨rfl, rfl, rfl, rfl, rfl, rfl⟩, rfl, BitVec.add_zero _⟩

/-- The frame of a one-byte instruction that writes the register file only, at any cost (R155, R156). -/
theorem complete_registers_frame (cost : Nat) (s : State) (a x y sp p : Byte) :
    let t := complete 1 cost { s with a := a, x := x, y := y, sp := sp, p := p }
    Quiet s t ∧ t.pc = s.pc ∧ t.cycles = s.cycles + cost :=
  ⟨quiet_of ⟨rfl, rfl, rfl, rfl, rfl, rfl⟩ rfl rfl rfl rfl, BitVec.add_zero _, rfl⟩

/-- PLA goes through the flagged register write (R30, R272). -/
theorem execPla_spec (s : State) :
    ∃ t, execPla s = .next t ∧ t.registers = (pulled8 s, s.x, s.y, s.sp + 1) ∧ SetsZN s.p t.p t.a ∧ Quiet s t ∧ t.pc = s.pc ∧
      t.cycles = s.cycles + 4 :=
  ⟨_, rfl, rfl, zn_sets s.p (pulled8 s), complete_registers_frame 4 s (pulled8 s) s.x s.y (s.sp + 1) (zn s.p (pulled8 s))⟩

/-- PLP writes the status byte itself, with no Z or N recomputed (R273). -/
theorem execPlp_spec (s : State) :
    ∃ t, execPlp s = .next t ∧ t.registers = (s.a, s.x, s.y, s.sp + 1) ∧ t.p = withoutBreak (pulled8 s) ∧ Quiet s t ∧
      t.pc = s.pc ∧ t.cycles = s.cycles + 4 :=
  ⟨_, rfl, rfl, rfl, complete_registers_frame 4 s s.a s.x s.y (s.sp + 1) (withoutBreak (pulled8 s))⟩

/-- Settles O28: PHA and PHP are one push each, of A and of the status copy; PLA and PLP are one pull each. -/
theorem pushAndPullInstructions : Obligations.PushAndPullInstructions := by
  refine ⟨fun s i code v hinv h => ?_, rfl, rfl, fun s => ⟨execPla_spec s, execPlp_spec s⟩⟩
  simp only [List.mem_cons, List.not_mem_nil, or_false, Prod.mk.injEq] at h
  rcases h with pha | php
  · obtain ⟨rfl, rfl, rfl⟩ := pha
    exact ⟨rfl, exec_pushes hinv rfl⟩
  · obtain ⟨rfl, rfl, rfl⟩ := php
    exact ⟨rfl, exec_pushes hinv rfl⟩

theorem withFlag_keeps (p : Byte) (f : Flag) (b : Bool) : KeepsFlagsBut p (withFlag p f b) [f] := by
  intro g hg
  rw [flagOf_withFlag, if_neg (List.mem_singleton.not.mp hg)]

/-- An instruction that writes one flag writes nothing else (R12). -/
theorem exec_sets_flag {i : Instr} {s : State} {f : Flag} {b : Bool} (hexec : exec i s = implied (fun s => s.setFlag f b) s) :
    ∃ t, exec i s = .next t ∧ flagOf t.p f = b ∧ KeepsFlagsBut s.p t.p [f] ∧ t.registers = s.registers ∧ Quiet s t ∧
      t.pc = s.pc ∧ t.cycles = s.cycles + 2 := by
  obtain ⟨t, hnext, hregs, hp, hframe⟩ := implied_writes (f := fun s => s.setFlag f b) (s := s) rfl
  refine ⟨t, hexec.trans hnext, ?_, ?_, hregs, hframe⟩
  · rw [hp, flagOf_withFlag, if_pos rfl]
  · rw [hp]
    exact withFlag_keeps s.p f b

/-- Settles O29: each of the seven is `exec_sets_flag` for its flag and value. -/
theorem flagInstructions : Obligations.FlagInstructions := by
  intro s i code f b h
  simp only [List.mem_cons, List.not_mem_nil, or_false, Prod.mk.injEq] at h
  rcases h with clc | sec | cli | sei | clv | cld | sed
  · obtain ⟨rfl, rfl, rfl, rfl⟩ := clc
    exact ⟨rfl, exec_sets_flag rfl⟩
  · obtain ⟨rfl, rfl, rfl, rfl⟩ := sec
    exact ⟨rfl, exec_sets_flag rfl⟩
  · obtain ⟨rfl, rfl, rfl, rfl⟩ := cli
    exact ⟨rfl, exec_sets_flag rfl⟩
  · obtain ⟨rfl, rfl, rfl, rfl⟩ := sei
    exact ⟨rfl, exec_sets_flag rfl⟩
  · obtain ⟨rfl, rfl, rfl, rfl⟩ := clv
    exact ⟨rfl, exec_sets_flag rfl⟩
  · obtain ⟨rfl, rfl, rfl, rfl⟩ := cld
    exact ⟨rfl, exec_sets_flag rfl⟩
  · obtain ⟨rfl, rfl, rfl, rfl⟩ := sed
    exact ⟨rfl, exec_sets_flag rfl⟩

end Sys2Proof.Machine
end

section
/-! The traps (46 R312): the opcode bytes that are not admitted, and the faults that an admitted instruction can raise instead
(R460, R462, R464). -/

namespace Sys2Proof.Machine

/-! ### The opcode bytes of the trapped instructions -/

/-- The 25 opcode bytes of R312. -/
def trappedCodes : List Byte :=
  [0x02, 0x12, 0x22, 0x32, 0x42, 0x52, 0x62, 0x72, 0x92, 0xB2, 0xD2, 0xF2, 0x0B, 0x2B, 0x4B, 0x6B, 0x8B, 0x93, 0x9F,
    0x9B, 0x9C, 0x9E, 0xAB, 0xBB, 0xCB]

/-- An opcode byte that an Encoding line gives is a byte of that line. -/
theorem operand_code_mem {o : Operand} {line : List (Format × Byte)} {code : Byte} (h : o.code line = some code) :
    ∃ p ∈ line, p.2 = code := by
  obtain ⟨before, after, hline, -⟩ := List.lookup_eq_some_iff.mp h
  exact ⟨(o.format, code), by simp [hline], rfl⟩

theorem code_not_trapped_of_line {o : Operand} {line : List (Format × Byte)} {code : Byte} (h : o.code line = some code)
    (hline : ∀ p ∈ line, p.2 ∉ trappedCodes) : code ∉ trappedCodes := by
  obtain ⟨p, hp, rfl⟩ := operand_code_mem h
  exact hline p hp

/-- An instruction that carries its opcode byte has that byte, one of those of its rows. -/
theorem carried_code {codes : List Byte} {c code : Byte} (h : (if codes.contains c then some c else none) = some code) :
    c = code ∧ code ∈ codes := by
  obtain ⟨hmem, heq⟩ := Option.ite_none_right_eq_some.mp h
  obtain rfl := Option.some.inj heq
  exact ⟨rfl, List.contains_iff_mem.mp hmem⟩

theorem nopOperandCodes_not_trapped (f : Format) : ∀ c ∈ nopOperandCodes f, c ∉ trappedCodes := by
  cases f <;> decide

/-- The opcode byte of an admitted instruction is none of R312's: by its Encoding line, its one byte, or the bytes of its rows. -/
theorem code_not_trapped {i : Instr} {code : Byte} (hadm : i.trapped = false) (h : i.opcode = some code) : code ∉ trappedCodes := by
  cases i with
  | lda o | ldx o | ldy o | sta o | stx o | sty o | adc o | sbc o | and o | ora o | eor o | cmp o | cpx o | cpy o | bit o
  | inc o | dec o | asl o | lsr o | rol o | ror o | lax o | sax o | dcp o | isb o | slo o | rla o | sre o | rra o =>
    exact code_not_trapped_of_line h (by decide)
  | tax | tay | txa | tya | tsx | txs | inx | iny | dex | dey | bcc _ | bcs _ | beq _ | bne _ | bmi _ | bpl _ | bvc _ | bvs _
  | jmp _ | jmpInd _ | jsr _ | rts | pha | php | pla | plp | clc | sec | cli | sei | clv | cld | sed | nop | brk | rti
  | sbcEB _ =>
    obtain rfl := Option.some.inj h
    decide
  | nopImplied c =>
    have hall : ∀ c ∈ nopImpliedCodes, c ∉ trappedCodes := by decide
    exact hall code (carried_code h).2
  | nopOperand c o => exact nopOperandCodes_not_trapped o.format code (carried_code h).2
  | _ => cases hadm

/-- A trapped instruction has one of R312's bytes, and its meaning is the stop with that byte (R154). -/
theorem exec_trapped {i : Instr} {code : Byte} (htrap : i.trapped = true) (h : i.opcode = some code) (s : State) :
    code ∈ trappedCodes ∧ exec i s = unknownOpcode code s := by
  cases i with
  | jam c =>
    have hall : ∀ c ∈ jamCodes, c ∈ trappedCodes := by decide
    obtain ⟨rfl, hmem⟩ := carried_code h
    exact ⟨hall c hmem, rfl⟩
  | anc c =>
    have hall : ∀ c ∈ ancCodes, c ∈ trappedCodes := by decide
    obtain ⟨rfl, hmem⟩ := carried_code h
    exact ⟨hall c hmem, rfl⟩
  | sha c =>
    have hall : ∀ c ∈ shaCodes, c ∈ trappedCodes := by decide
    obtain ⟨rfl, hmem⟩ := carried_code h
    exact ⟨hall c hmem, rfl⟩
  | alr | arr | ane | tas | shy | shx | lxa | las | sbx =>
    obtain rfl := Option.some.inj h
    exact ⟨by decide, rfl⟩
  | _ => cases htrap

/-! ### The faults of the admitted instructions -/

/-- The fault `x` is that of an address asked for of an operand that has none (R169). -/
def MisuseFault (o : Operand) (s : State) (x : Fault) : Prop :=
  effective o s = none ∧ x = .addressingMisuse (peek s (s.pc - 1))

/-- The fault `x` is that of a store to the operand's effective address, in ROM (R81, R462). -/
def RomFault (o : Operand) (s : State) (x : Fault) : Prop :=
  ∃ e v, effective o s = some e ∧ 0x8000#16 ≤ e.addr ∧ x = .romWrite e.addr v

theorem readOperand_fault {o : Operand} {f : Byte → State → State} {s : State} {x : Fault} (h : readOperand o f s = .fault x) :
    MisuseFault o s x := by
  cases he : effective o s with
  | none =>
    simp only [readOperand, he, misuse, Host.Outcome.fault.injEq] at h
    exact ⟨he, h.symm⟩
  | some e =>
    rw [readOperand_eq he] at h
    cases h

theorem storeOperand_fault {o : Operand} {v : Byte} {s : State} {x : Fault} (h : storeOperand o v s = .fault x) :
    MisuseFault o s x ∨ RomFault o s x := by
  cases he : effective o s with
  | none =>
    simp only [storeOperand, he, misuse, Host.Outcome.fault.injEq] at h
    exact .inl ⟨he, h.symm⟩
  | some e =>
    by_cases hrom : 0x8000#16 ≤ e.addr
    · cases (storeOperand_rom he hrom v).symm.trans h
      exact .inr ⟨e, _, he, hrom, rfl⟩
    · obtain ⟨t, hnext, -⟩ := storeOperand_below he (BitVec.not_le.mp hrom) v
      cases hnext.symm.trans h

theorem modifyOperand_fault {o : Operand} {r : Byte → Byte} {f : Byte → Byte → State → State} {s : State} {x : Fault}
    (h : modifyOperand o r f s = .fault x) : MisuseFault o s x ∨ RomFault o s x := by
  cases he : effective o s with
  | none =>
    simp only [modifyOperand, he, misuse, Host.Outcome.fault.injEq] at h
    exact .inl ⟨he, h.symm⟩
  | some e =>
    by_cases hrom : 0x8000#16 ≤ e.addr
    · cases (modifyOperand_rom he hrom r f).symm.trans h
      exact .inr ⟨e, _, he, hrom, rfl⟩
    · obtain ⟨t, hnext, -⟩ := modifyOperand_below he (BitVec.not_le.mp hrom) r f
      cases hnext.symm.trans h

/-- The accumulator form has no fault, so a shift that faults has an address and stores there (R240). -/
theorem shiftOperand_fault {k : Shift} {o : Operand} {s : State} {x : Fault} (h : shiftOperand k o s = .fault x) :
    o ≠ .acc ∧ RomFault o s x := by
  unfold shiftOperand at h
  split at h
  · cases h
  · next hacc =>
    refine ⟨hacc, (modifyOperand_fault h).resolve_left fun ⟨hnone, _⟩ => ?_⟩
    obtain ⟨e, he⟩ := effective_of_ne_acc hacc s
    cases hnone.symm.trans he

theorem branch_ne_fault (taken : Bool) (disp : Byte) (s : State) (x : Fault) : branch taken disp s ≠ .fault x := by
  cases taken <;> nofun

theorem execJmpInd_ne_fault (pointer : Addr) (s : State) (x : Fault) : execJmpInd pointer s ≠ .fault x := by
  unfold execJmpInd
  split
  · nofun
  · split <;> nofun

theorem execBrk_ne_fault (s : State) (x : Fault) : execBrk s ≠ .fault x := by
  unfold execBrk
  split <;> nofun

/-- An admitted term that faults asked for an address its operand does not have, which a well-formed one never does (R464), or
stored to ROM (R462, R463). -/
theorem exec_fault_cases {i : Instr} {s : State} {x : Fault} (hadm : i.trapped = false) (h : exec i s = .fault x) :
    (∃ o, i.operand = some o ∧ MisuseFault o s x) ∨ ∃ o, i.storesTo = some o ∧ RomFault o s x := by
  cases i with
  | lda o | ldx o | ldy o | adc o | sbc o | and o | ora o | eor o | cmp o | cpx o | cpy o | bit o | lax o | nopOperand _ o =>
    simp only [exec] at h
    exact .inl ⟨o, rfl, readOperand_fault h⟩
  | sbcEB v =>
    simp only [exec] at h
    exact .inl ⟨.imm v, rfl, readOperand_fault h⟩
  | sta o | stx o | sty o | sax o =>
    simp only [exec] at h
    exact (storeOperand_fault h).imp (fun hmis => ⟨o, rfl, hmis⟩) fun hrom => ⟨o, rfl, hrom⟩
  | inc o | dec o | dcp o | isb o | slo o | rla o | sre o | rra o =>
    simp only [exec] at h
    exact (modifyOperand_fault h).imp (fun hmis => ⟨o, rfl, hmis⟩) fun hrom => ⟨o, rfl, hrom⟩
  | asl o | lsr o | rol o | ror o =>
    obtain ⟨hacc, hrom⟩ := shiftOperand_fault h
    exact .inr ⟨o, if_neg hacc, hrom⟩
  | bcc d | bcs d | beq d | bne d | bmi d | bpl d | bvc d | bvs d => exact absurd h (branch_ne_fault _ d s x)
  | jmpInd pointer => exact absurd h (execJmpInd_ne_fault pointer s x)
  | brk => exact absurd h (execBrk_ne_fault s x)
  | tax | tay | txa | tya | tsx | txs | inx | iny | dex | dey | jmp _ | jsr _ | rts | pha | php | pla | plp | clc | sec | cli
  | sei | clv | cld | sed | nop | rti | nopImplied _ => cases h
  | _ => cases hadm

theorem exec_ne_unknownOpcode {i : Instr} (hadm : i.trapped = false) (s : State) (code : Byte) : exec i s ≠ unknownOpcode code s := by
  intro h
  rcases exec_fault_cases hadm h with ⟨o, -, -, hmis⟩ | ⟨o, -, e, v, -, -, hrom⟩
  · cases hmis
  · cases hrom

/-- Settles O9: a trapped instruction has a listed byte and raises the fault with it; an admitted one has none and never does. -/
theorem trappedOpcodesFault : Obligations.TrappedOpcodesFault := by
  intro i s code _ hcode
  cases htrap : i.trapped with
  | true =>
    obtain ⟨hmem, hexec⟩ := exec_trapped htrap hcode s
    exact iff_of_true hexec hmem
  | false => exact iff_of_false (exec_ne_unknownOpcode htrap s code) (code_not_trapped htrap hcode)

end Sys2Proof.Machine
end

section
/-! OAM DMA (47 R348, 49 R436): the block of reads that fills the buffer, and the bulk write that empties it into OAM. -/

namespace Sys2Proof.Machine

/-! ### The block of reads -/

theorem add_one_add_ofNat (a : Addr) (n : Nat) : a + 1 + BitVec.ofNat 16 n = a + BitVec.ofNat 16 (n + 1) := by
  rw [BitVec.add_assoc, BitVec.add_comm 1, BitVec.ofNat_add]
  rfl

/-- A block of reads seen from its end: the last read is made in the state the ones before it left. -/
theorem afterBlock_succ : ∀ (n : Nat) (s : State) (a : Addr),
    afterBlock (n + 1) s a = afterRead (afterBlock n s a) (a + BitVec.ofNat 16 n)
  | 0, s, a => congrArg (afterRead s) (BitVec.add_zero a).symm
  | n + 1, s, a => by
    rw [← add_one_add_ofNat]
    exact afterBlock_succ n (afterRead s a) (a + 1)

@[simp] theorem length_blockValues : ∀ (n : Nat) (s : State) (a : Addr), (blockValues n s a).length = n
  | 0, _, _ => rfl
  | n + 1, s, a => congrArg Nat.succ (length_blockValues n (afterRead s a) (a + 1))

/-- Value `k` of a block is what the read at its address gives in the state the `k` reads before it left. -/
theorem getElem?_blockValues {n k : Nat} (s : State) (a : Addr) (hk : k < n) :
    (blockValues n s a)[k]? = some (peek (afterBlock k s a) (a + BitVec.ofNat 16 k)) := by
  induction n generalizing k s a with
  | zero => cases hk
  | succ n ih =>
    cases k with
    | zero => simp [blockValues, afterBlock]
    | succ k =>
      rw [blockValues, List.getElem?_cons_succ, afterBlock, ← add_one_add_ofNat]
      exact ih (afterRead s a) (a + 1) (Nat.lt_of_succ_lt_succ hk)

/-- Reads without side effects change nothing, however many they are (R86). -/
theorem afterBlock_of_no_effect {s : State} {a : Addr} : ∀ {n : Nat},
    (∀ k < n, sideEffectRead (a + BitVec.ofNat 16 k) = false) → afterBlock n s a = s
  | 0, _ => rfl
  | n + 1, h => by
    rw [afterBlock_succ, afterBlock_of_no_effect fun k hk => h k (Nat.lt_succ_of_lt hk)]
    exact afterRead_of_no_effect (h n (Nat.lt_succ_self n))

/-! ### The bulk OAM write -/

/-- The bulk write seen at the cell `k` places after `oam_addr`: byte `k` of the buffer, or the old byte past the buffer's end. -/
theorem read_oamDmaWrite : ∀ (buf : List Byte) {u : Ppu} {k : Nat}, u.oam.wf = true → buf.length ≤ 256 → k < 256 →
    (oamDmaWrite buf u).oam.read ((u.oamAddr.toNat + k) % 256) = buf.getD k (u.oam.read ((u.oamAddr.toNat + k) % 256))
  | [], _, _, _, _, _ => rfl
  | v :: buf, u, k, hwf, hlen, hk => by
    have hput : ∀ c, (oamPut u v).oam.read c = if c = u.oamAddr.toNat then v else u.oam.read c := fun c =>
      Memory.read_write hwf
    have haddr : (oamPut u v).oamAddr.toNat = (u.oamAddr.toNat + 1) % 256 := BitVec.toNat_add u.oamAddr 1
    have hu := u.oamAddr.isLt
    have hbuf : buf.length < 256 := hlen
    cases k with
    | zero =>
      -- The first cell is the last one from the stepped address on, and the rest of the buffer ends before it.
      have hcell : ((oamPut u v).oamAddr.toNat + 255) % 256 = (u.oamAddr.toNat + 0) % 256 := by omega
      have ih := read_oamDmaWrite buf (u := oamPut u v) (k := 255) (Memory.wf_write hwf) hbuf.le (by decide)
      rw [hcell, List.getD_eq_default _ _ (Nat.le_of_lt_succ hbuf), hput, if_pos (by omega)] at ih
      exact ih
    | succ k =>
      have hcell : ((oamPut u v).oamAddr.toNat + k) % 256 = (u.oamAddr.toNat + (k + 1)) % 256 := by omega
      have ih := read_oamDmaWrite buf (u := oamPut u v) (k := k) (Memory.wf_write hwf) hbuf.le (Nat.lt_of_succ_lt hk)
      rw [hcell, hput, if_neg (by omega)] at ih
      exact ih

/-- After 256 bytes `oam_addr` is back where it was (R348). -/
theorem oamDmaWrite_eq_of_length {buf : List Byte} (h : buf.length = 256) (u : Ppu) :
    oamDmaWrite buf u = { u with oam := (oamDmaWrite buf u).oam } := by
  obtain ⟨oam, hsame⟩ := oamDmaWrite_same buf u
  have hback : u.oamAddr + BitVec.ofNat 8 buf.length = u.oamAddr := h ▸ BitVec.add_zero u.oamAddr
  rw [hback] at hsame
  rw [hsame]

theorem writeOam_eq (buf : List Byte) (s : State) : writeOam buf s = { s with ppu := (writeOam buf s).ppu } := rfl

theorem writeOam_ppu_eq {buf : List Byte} (h : buf.length = 256) (s : State) :
    (writeOam buf s).ppu = { s.ppu with oam := (writeOam buf s).ppu.oam } :=
  oamDmaWrite_eq_of_length h s.ppu

/-! ### The page that OAM DMA reads -/

/-- The addresses of page `v` in ascending order. -/
theorem pageAddr_eq (v : Byte) (k : Nat) : wordOf v 0 + BitVec.ofNat 16 k = BitVec.ofNat 16 (256 * v.toNat + k) := by
  have hpage : wordOf v 0 = BitVec.ofNat 16 (256 * v.toNat) := by
    have hlt := v.isLt
    apply BitVec.eq_of_toNat_eq
    rw [wordOf_toNat, BitVec.toNat_ofNat, Nat.mod_eq_of_lt (by omega)]
    rfl
  rw [hpage, BitVec.ofNat_add]

/-- A page below the PPU window or above the joypad's has no address of R86's table. -/
theorem sideEffectRead_page {v : Byte} (hv : v < 0x20 ∨ 0x40 < v) {k : Nat} (hk : k < 256) :
    sideEffectRead (wordOf v 0 + BitVec.ofNat 16 k) = false := by
  have ha : (wordOf v 0 + BitVec.ofNat 16 k).toNat = 256 * v.toNat + k := by
    have hlt := v.isLt
    rw [pageAddr_eq, BitVec.toNat_ofNat]
    omega
  rw [Bool.eq_false_iff, Ne, sideEffectRead_iff]
  rintro (⟨⟨hlo, hhi⟩, -⟩ | hjoy) <;> bv_omega

/-- The state that the first `k` of the 256 reads leave. -/
def afterPageReads (s : State) (v : Byte) (k : Nat) : State := afterBlock k s (wordOf v 0)

theorem afterPageReads_succ (s : State) (v : Byte) (k : Nat) :
    afterPageReads s v (k + 1) = afterRead (afterPageReads s v k) (BitVec.ofNat 16 (256 * v.toNat + k)) := by
  rw [afterPageReads, afterBlock_succ, pageAddr_eq]
  rfl

theorem afterPageReads_of_no_effect {s : State} {v : Byte} (hv : v < 0x20 ∨ 0x40 < v) {k : Nat} (hk : k ≤ 256) :
    afterPageReads s v k = s :=
  afterBlock_of_no_effect fun _ hj => sideEffectRead_page hv (hj.trans_le hk)

theorem afterPageReads_oam_wf {s : State} (h : s.Inv) (v : Byte) (k : Nat) : (afterPageReads s v k).ppu.oam.wf = true := by
  obtain ⟨hram, hprg, hp, -, hjoy, hppu⟩ := h
  obtain ⟨-, -, -, -, -, -, hsound⟩ := afterBlock_kept k s (wordOf v 0)
  obtain ⟨-, -, -, -, ⟨-, -, -, hoam, -⟩, -⟩ := hsound ⟨hram, hprg, hp, hjoy, hppu⟩
  exact hoam

/-! ### OAM DMA -/

theorem busWrite_oamDma (s : State) (v : Byte) : busWrite s 0x4014 v = .next (oamDma s v) := by
  rw [busWrite, if_neg (by decide), if_neg (by decide), if_pos (by decide)]

theorem oamDma_eq_writeOam (s : State) (v : Byte) :
    oamDma s v = writeOam (blockValues 256 s (wordOf v 0)) (afterPageReads s v 256) := rfl

/-- After its reads, OAM DMA changes the PPU only. -/
theorem oamDma_eq (s : State) (v : Byte) : oamDma s v = { afterPageReads s v 256 with ppu := (oamDma s v).ppu } := by
  rw [oamDma_eq_writeOam]
  exact writeOam_eq _ _

/-- Of the PPU it changes OAM only: `oam_addr` is back where it was. -/
theorem oamDma_ppu_eq (s : State) (v : Byte) :
    (oamDma s v).ppu = { (afterPageReads s v 256).ppu with oam := (oamDma s v).ppu.oam } := by
  rw [oamDma_eq_writeOam]
  exact writeOam_ppu_eq (length_blockValues 256 s _) _

/-- Byte `k` of OAM from `oam_addr` on is read `k` of the page (R436). -/
theorem read_oamDma {s : State} (hs : s.Inv) (v : Byte) {k : Nat} (hk : k < 256) :
    (oamDma s v).ppu.oam.read (((afterPageReads s v 256).ppu.oamAddr.toNat + k) % 256) =
      peek (afterPageReads s v k) (BitVec.ofNat 16 (256 * v.toNat + k)) := by
  have hoam := afterPageReads_oam_wf hs v 256
  rw [oamDma_eq_writeOam]
  generalize afterPageReads s v 256 = t at hoam ⊢
  rw [writeOam, read_oamDmaWrite _ hoam (length_blockValues 256 s _).le hk, List.getD_eq_getElem?_getD,
    getElem?_blockValues s _ hk, pageAddr_eq]
  rfl

/-- Settles O40: the states of the reads are `afterPageReads`; a page whose reads have no side effect leaves every one of them `s`. -/
theorem oamDmaCopiesAPage : Obligations.OamDmaCopiesAPage := by
  intro s v hs
  refine ⟨busWrite_oamDma s v, ⟨afterPageReads s v, rfl, fun k _ => afterPageReads_succ s v k, fun k hk => read_oamDma hs v hk,
    oamDma_ppu_eq s v, oamDma_eq s v⟩, fun hv => ?_⟩
  have hquiet : ∀ {k : Nat}, k ≤ 256 → afterPageReads s v k = s := fun hk => afterPageReads_of_no_effect hv hk
  have hstate := oamDma_eq s v
  have hppu := oamDma_ppu_eq s v
  rw [hquiet le_rfl] at hstate hppu
  refine ⟨?_, fun k hk => ?_⟩
  · rwa [← hppu]
  · have hread := read_oamDma hs v hk
    rwa [hquiet le_rfl, hquiet hk.le] at hread

end Sys2Proof.Machine
end

section
/-! The vertical-blank flag and the NMI request through one dot (48 R374, R397, R398): the two dots that write them, each as one equation
of `dot`, and every other dot, which keeps them. -/

namespace Sys2Proof.Machine

/-! ### The two ends of a dot (R371, R373) -/

/-- The dot-0 skip is made on scanline 0 only (R373). -/
theorem skipDotZero_of_scanline_ne_zero (skip : Bool) {u : Ppu} (h : u.scanline ≠ 0) : skipDotZero skip u = u :=
  if_neg fun hskip => h hskip.2.1

theorem skipDotZero_flags (skip : Bool) (u : Ppu) :
    (skipDotZero skip u).verticalBlank = u.verticalBlank ∧ (skipDotZero skip u).nmiPending = u.nmiPending := by
  unfold skipDotZero
  split <;> exact ⟨rfl, rfl⟩

/-- Off scanline 0 a dot does the work of the position it finds. -/
theorem dot_of_scanline_ne_zero (skip : Bool) {u : Ppu} (h : u.scanline ≠ 0) :
    dot skip u = advanceCounters (dotWork u.scanline u.dot u) := by
  rw [dot, dotBody, skipDotZero_of_scanline_ne_zero skip h]

/-- The dot-0 skip moves no dot to one of those that write the flags: they are off scanline 0. -/
theorem skipDotZero_position_iff (skip : Bool) (u : Ppu) {s : Int} (hs : s ≠ 0) (d : Nat) :
    (skipDotZero skip u).scanline = s ∧ (skipDotZero skip u).dot = d ↔ u.scanline = s ∧ u.dot = d := by
  by_cases h0 : u.scanline = 0
  · have hline : (skipDotZero skip u).scanline = 0 := by
      unfold skipDotZero
      split <;> exact h0
    rw [hline, h0]
    exact iff_of_false (fun h => hs h.1.symm) (fun h => hs h.1.symm)
  · rw [skipDotZero_of_scanline_ne_zero skip h0]

/-- The counter advance and the end of the frame leave the status flags and the request alone (R371, R399). -/
theorem advanceCounters_flags (u : Ppu) :
    (advanceCounters u).verticalBlank = u.verticalBlank ∧ (advanceCounters u).spriteZeroHit = u.spriteZeroHit ∧
      (advanceCounters u).spriteOverflow = u.spriteOverflow ∧ (advanceCounters u).nmiPending = u.nmiPending := by
  unfold advanceCounters
  split
  · split <;> exact ⟨rfl, rfl, rfl, rfl⟩
  · exact ⟨rfl, rfl, rfl, rfl⟩

/-! ### The dots that write the flags -/

/-- The dot at `(241, 1)` is phase 10 (R397). -/
theorem dot_vblankStart (skip : Bool) {u : Ppu} (hs : u.scanline = 241) (hd : u.dot = 1) :
    dot skip u = advanceCounters (startVblank u) := by
  rw [dot_of_scanline_ne_zero skip (by omega), hs, hd]
  rfl

/-- The report of that dot is phase 10's: it is not the last of the frame (R401). -/
theorem dotReports_vblankStart (skip : Bool) {u : Ppu} (hs : u.scanline = 241) (hd : u.dot = 1) :
    dotReports skip u = u.nmiEnable := by
  have hend : endsFrame u = false := by simp [endsFrame, hd]
  have hreport : vblankReports 241 1 u = u.nmiEnable := rfl
  rw [dotReports, skipDotZero_of_scanline_ne_zero skip (by omega), hend, hs, hd, hreport, Bool.or_false]

/-- The dot at `(-1, 1)` is phase 2: no other phase's condition holds there (R372, R374). -/
theorem dot_preRenderStart (skip : Bool) {u : Ppu} (hs : u.scanline = -1) (hd : u.dot = 1) :
    dot skip u = advanceCounters (startPreRender u) := by
  rw [dot_of_scanline_ne_zero skip (by omega), hs, hd]
  rfl

/-! ### The other dots: no rendering phase but phase 2 writes the vertical-blank flag -/

theorem phase_verticalBlank {c : Bool} {f : Ppu → Ppu} (h : ∀ w, (f w).verticalBlank = w.verticalBlank) (u : Ppu) :
    (phase c f u).verticalBlank = u.verticalBlank := by
  cases c
  · rfl
  · exact h u

@[simp] theorem shiftBackground_verticalBlank (u : Ppu) : (shiftBackground u).verticalBlank = u.verticalBlank := by
  unfold shiftBackground; split <;> rfl
@[simp] theorem stepSprites_verticalBlank (d : Nat) (u : Ppu) : (stepSprites d u).verticalBlank = u.verticalBlank := by
  unfold stepSprites; split <;> rfl
@[simp] theorem loadBackgroundShifters_verticalBlank (u : Ppu) : (loadBackgroundShifters u).verticalBlank = u.verticalBlank := rfl
@[simp] theorem fetchTileId_verticalBlank (u : Ppu) : (fetchTileId u).verticalBlank = u.verticalBlank := rfl
@[simp] theorem incrementScrollX_verticalBlank (u : Ppu) : (incrementScrollX u).verticalBlank = u.verticalBlank := by
  unfold incrementScrollX; split <;> rfl
@[simp] theorem incrementScrollY_verticalBlank (u : Ppu) : (incrementScrollY u).verticalBlank = u.verticalBlank := by
  unfold incrementScrollY; split <;> rfl
@[simp] theorem transferAddressX_verticalBlank (u : Ppu) : (transferAddressX u).verticalBlank = u.verticalBlank := by
  unfold transferAddressX; split <;> rfl
@[simp] theorem transferAddressY_verticalBlank (u : Ppu) : (transferAddressY u).verticalBlank = u.verticalBlank := by
  unfold transferAddressY; split <;> rfl
@[simp] theorem pipelineStep_verticalBlank (d : Nat) (u : Ppu) : (pipelineStep d u).verticalBlank = u.verticalBlank := by
  unfold pipelineStep
  split
  case h_5 => exact incrementScrollX_verticalBlank u
  all_goals rfl
@[simp] theorem evaluateSprites_verticalBlank (s : Int) (u : Ppu) : (evaluateSprites s u).verticalBlank = u.verticalBlank := rfl
@[simp] theorem fetchSpritePatterns_verticalBlank (s : Int) (u : Ppu) :
    (fetchSpritePatterns s u).verticalBlank = u.verticalBlank := rfl
@[simp] theorem composePixel_verticalBlank (s : Int) (d : Nat) (u : Ppu) :
    (composePixel s d u).verticalBlank = u.verticalBlank := rfl

theorem renderLine_verticalBlank {s : Int} {d : Nat} (h : ¬ (s = -1 ∧ d = 1)) (u : Ppu) :
    (renderLine s d u).verticalBlank = u.verticalBlank := by
  have hpre : (decide (s = -1) && decide (d = 1)) = false := by simpa using h
  have hpipeline : ∀ w, (pipelineStep d (stepSprites d (shiftBackground w))).verticalBlank = w.verticalBlank := by simp
  have hreload : ∀ w, (transferAddressX (loadBackgroundShifters w)).verticalBlank = w.verticalBlank := by simp
  rw [renderLine, hpre, phase_verticalBlank (composePixel_verticalBlank s d), phase_verticalBlank (fetchSpritePatterns_verticalBlank s),
    phase_verticalBlank (evaluateSprites_verticalBlank s), phase_verticalBlank transferAddressY_verticalBlank,
    phase_verticalBlank fetchTileId_verticalBlank, phase_verticalBlank hreload, phase_verticalBlank incrementScrollY_verticalBlank,
    phase_verticalBlank hpipeline]
  rfl

theorem dotWork_verticalBlank {s : Int} {d : Nat} (hstart : ¬ (s = 241 ∧ d = 1)) (hpre : ¬ (s = -1 ∧ d = 1)) (u : Ppu) :
    (dotWork s d u).verticalBlank = u.verticalBlank := by
  have hidle : (decide (s = 241) && decide (d = 1)) = false := by simpa using hstart
  rw [dotWork, hidle]
  split
  · exact renderLine_verticalBlank hpre u
  · rfl

/-- The request is phase 10's alone: `renderLine_stays` has it among what the rendering lines keep. -/
theorem dotWork_nmiPending {s : Int} {d : Nat} (hstart : ¬ (s = 241 ∧ d = 1)) (u : Ppu) :
    (dotWork s d u).nmiPending = u.nmiPending := by
  have hidle : (decide (s = 241) && decide (d = 1)) = false := by simpa using hstart
  rw [dotWork, hidle]
  split
  · obtain ⟨-, -, -, -, hnmi, -⟩ := renderLine_stays s d u
    exact hnmi
  · rfl

theorem dot_keeps_nmiPending (skip : Bool) {u : Ppu} (hstart : ¬ (u.scanline = 241 ∧ u.dot = 1)) :
    (dot skip u).nmiPending = u.nmiPending := by
  obtain ⟨-, -, -, hadvance⟩ := advanceCounters_flags (dotBody skip u)
  have hwork := dotWork_nmiPending (mt (skipDotZero_position_iff skip u (by decide) 1).mp hstart) (skipDotZero skip u)
  exact hadvance.trans (hwork.trans (skipDotZero_flags skip u).2)

theorem dot_keeps_verticalBlank (skip : Bool) {u : Ppu} (hstart : ¬ (u.scanline = 241 ∧ u.dot = 1))
    (hpre : ¬ (u.scanline = -1 ∧ u.dot = 1)) : (dot skip u).verticalBlank = u.verticalBlank := by
  obtain ⟨hadvance, -⟩ := advanceCounters_flags (dotBody skip u)
  have hwork := dotWork_verticalBlank (mt (skipDotZero_position_iff skip u (by decide) 1).mp hstart)
    (mt (skipDotZero_position_iff skip u (by decide) 1).mp hpre) (skipDotZero skip u)
  exact hadvance.trans (hwork.trans (skipDotZero_flags skip u).1)

/-- Settles O47: the two writing dots are one phase each, and every phase of the other dots keeps the flag and the request. -/
theorem verticalBlank : Obligations.VerticalBlank := by
  intro u skip
  refine ⟨fun hs hd => ?_, dot_keeps_nmiPending skip, fun hs hd => ?_, dot_keeps_verticalBlank skip⟩
  · obtain ⟨hvblank, -, -, hnmi⟩ := advanceCounters_flags (startVblank u)
    rw [dotReports_vblankStart skip hs hd, dot_vblankStart skip hs hd]
    exact ⟨hvblank, hnmi, rfl⟩
  · obtain ⟨hvblank, hhit, hoverflow, -⟩ := advanceCounters_flags (startPreRender u)
    rw [dot_preRenderStart skip hs hd]
    exact ⟨hvblank, hhit, hoverflow⟩

end Sys2Proof.Machine
end

section
/-! The NMI entry (40 R152, 49 R433, 60 R470): the tick that makes it, and what it does before its seven cycles are given to the
bus. -/

namespace Sys2Proof.Machine

/-- Taking the request changes nothing that a bus read depends on (R433). -/
theorem peek_pollNmi (s : State) (a : Addr) : peek (pollNmi s) a = peek s a := by
  by_cases h : inPpuWindow a
  · rw [peek_inPpuWindow _ h, peek_inPpuWindow _ h]
    rfl
  · exact peek_congr_outside rfl rfl rfl rfl rfl h

/-- The state in which `InterruptNMI()` gives its seven cycles to the bus (R470). -/
def nmiEntered (s : State) : State :=
  let s1 := takeInterrupt s.pc (withoutBreak s.p) Config.nmiVector s
  { s1 with cycles := s1.cycles + Config.nmiCycles }

theorem interruptNmi_eq (s : State) : interruptNmi s = busTick 7 (nmiEntered s) := by
  simp only [interruptNmi, nmiEntered, Config.nmiCycles]

/-- An idle tick with a pending request takes the request and makes the entry; it fetches nothing (R152). -/
theorem step_nmi {s : State} (hrun : s.run = .running) (hidle : s.cycles = 0) (hnmi : s.ppu.nmiPending = true) :
    step s = .next (busTick 7 (nmiEntered (pollNmi s))) := by
  simp only [step, tick, hrun, hidle, hnmi, Nat.lt_irrefl, if_true, if_false, interruptNmi_eq]

/-- What the entry pushes and where it goes (R470). -/
theorem nmiEntered_spec {s : State} (hwf : s.ram.wf = true) :
    Pushed s (nmiEntered s) [hiByte s.pc, loByte s.pc, withoutBreak s.p] ∧
    (nmiEntered s).pc = wordOf (peek s 0xFFFB) (peek s 0xFFFA) := by
  obtain ⟨hpushed, hpc⟩ := takeInterrupt_spec (vector := Config.nmiVector) hwf s.pc (withoutBreak s.p) (by decide) (by decide)
  exact ⟨hpushed.of_peek rfl fun _ => rfl, hpc⟩

/-- What the entry keeps (R470): the registers but `SP`, `run`, the devices and the host's side. -/
theorem nmiEntered_frame (s : State) :
    (nmiEntered s).a = s.a ∧ (nmiEntered s).x = s.x ∧ (nmiEntered s).y = s.y ∧ (nmiEntered s).run = s.run ∧
    (nmiEntered s).ppu = s.ppu ∧ (nmiEntered s).joypad = s.joypad ∧ SameHost s (nmiEntered s) := by
  simp [nmiEntered, SameHost]

/-- The entry sets I and no other flag (R470). -/
theorem nmiEntered_p (s : State) : (nmiEntered s).p = withFlag s.p .i true :=
  takeInterrupt_p s s.pc (withoutBreak s.p) Config.nmiVector

theorem nmiEntered_cycles (s : State) : (nmiEntered s).cycles = s.cycles + 7 := by
  simp only [nmiEntered, takeInterrupt_cycles, Config.nmiCycles]

/-- Settles O7: the entry is made in the state with the request taken, which differs from `s` in the request only. -/
theorem nmiEntry : Obligations.NmiEntry := by
  intro s hinv hrun hidle hnmi
  obtain ⟨⟨hwf, -⟩, -⟩ := hinv
  obtain ⟨⟨hsp, hcells, hrest⟩, hpc⟩ := nmiEntered_spec (s := pollNmi s) hwf
  simp only [peek_pollNmi] at hrest hpc
  obtain ⟨ha, hx, hy, hrun', hppu, hjoypad, hhost⟩ := nmiEntered_frame (pollNmi s)
  refine ⟨nmiEntered (pollNmi s), step_nmi hrun hidle hnmi, ⟨hsp, hcells, hrest⟩, hpc, ?_, ?_, ?_, ha, hx, hy, hrun'.trans hrun,
    hppu, hjoypad, hhost⟩
  · rw [nmiEntered_p, flagOf_withFlag, if_pos rfl]
  · rw [nmiEntered_p]
    exact withFlag_keeps s.p .i true
  · rw [nmiEntered_cycles, pollNmi_cycles, hidle]

end Sys2Proof.Machine
end

section
/-! Encoding and decoding (30 R120 to R124): a well-formed instruction is what its row of the opcode table builds of its operand bytes,
and the two directions of the round trip. -/

namespace Sys2Proof

/-- The instruction is what the row of its opcode byte builds of its operand bytes (R121, R123). -/
def Instr.IsRow (i : Instr) : Prop :=
  ∃ code, i.opcode = some code ∧
    match (opcodeRow code).shape with
    | .implied j => j = i ∧ i.operandBytes = []
    | .byte mk => ∃ b, mk b = i ∧ i.operandBytes = [b]
    | .word mk => ∃ a, mk a = i ∧ i.operandBytes = wordBytes a

/-- The unofficial NOPs with an operand, one row for each opcode byte of the format (R311). -/
theorem nopOperand_isRow {code : Byte} {o : Operand} (h : code ∈ nopOperandCodes o.format) : (Instr.nopOperand code o).IsRow := by
  cases o with
  | imm v =>
    have hcases : code = 0x80 ∨ code = 0x82 ∨ code = 0x89 ∨ code = 0xC2 ∨ code = 0xE2 := by
      simpa [Operand.format, nopOperandCodes] using h
    rcases hcases with rfl | rfl | rfl | rfl | rfl <;> exact ⟨_, rfl, v, rfl, rfl⟩
  | zp v =>
    have hcases : code = 0x04 ∨ code = 0x44 ∨ code = 0x64 := by simpa [Operand.format, nopOperandCodes] using h
    rcases hcases with rfl | rfl | rfl <;> exact ⟨_, rfl, v, rfl, rfl⟩
  | zpx v =>
    have hcases : code = 0x14 ∨ code = 0x34 ∨ code = 0x54 ∨ code = 0x74 ∨ code = 0xD4 ∨ code = 0xF4 := by
      simpa [Operand.format, nopOperandCodes] using h
    rcases hcases with rfl | rfl | rfl | rfl | rfl | rfl <;> exact ⟨_, rfl, v, rfl, rfl⟩
  | abs a =>
    obtain rfl : code = 0x0C := List.mem_singleton.mp h
    exact ⟨_, rfl, a, rfl, rfl⟩
  | abx a =>
    have hcases : code = 0x1C ∨ code = 0x3C ∨ code = 0x5C ∨ code = 0x7C ∨ code = 0xDC ∨ code = 0xFC := by
      simpa [Operand.format, nopOperandCodes] using h
    rcases hcases with rfl | rfl | rfl | rfl | rfl | rfl <;> exact ⟨_, rfl, a, rfl, rfl⟩
  | acc | zpy _ | aby _ | izx _ | izy _ => exact absurd h List.not_mem_nil

/-- An instruction that carries the opcode byte of its row and has no operand (R310, R312). -/
theorem carried_isRow {codes : List Byte} {mk : Byte → Instr}
    (hrows : ∀ c ∈ codes, (mk c).opcode = some c ∧ (opcodeRow c).shape.operandBytes = 0 ∧ decode3 c 0 0 = mk c ∧ (mk c).operandBytes = [])
    {code : Byte} (h : codes.contains code = true) : (mk code).IsRow := by
  obtain ⟨hopcode, hlen, hbuild, hnone⟩ := hrows code (List.contains_iff_mem.mp h)
  refine ⟨code, hopcode, ?_⟩
  unfold decode3 at hbuild
  cases hshape : (opcodeRow code).shape with
  | implied j =>
    rw [hshape] at hbuild
    exact ⟨hbuild, hnone⟩
  | byte make =>
    rw [hshape] at hlen
    cases hlen
  | word make =>
    rw [hshape] at hlen
    cases hlen

/-- Every well-formed instruction is a row: of each operand form it has, or of its one form. -/
theorem Instr.isRow_of_wellFormed {i : Instr} (h : i.wellFormed = true) : i.IsRow := by
  cases i with
  | lda o | ldx o | ldy o | sta o | stx o | sty o | adc o | sbc o | and o | ora o | eor o | cmp o | cpx o | cpy o | bit o
  | inc o | dec o | asl o | lsr o | rol o | ror o | lax o | sax o | dcp o | isb o | slo o | rla o | sre o | rra o =>
    cases o <;> first
      | exact ⟨_, rfl, _, rfl, rfl⟩
      | exact ⟨_, rfl, rfl, rfl⟩
      | exact (Bool.false_ne_true h).elim
  | bcc _ | bcs _ | beq _ | bne _ | bmi _ | bpl _ | bvc _ | bvs _ | jmp _ | jmpInd _ | jsr _ | sbcEB _ =>
    exact ⟨_, rfl, _, rfl, rfl⟩
  | nopOperand code o => exact nopOperand_isRow (List.contains_iff_mem.mp h)
  | nopImplied code => exact carried_isRow (mk := .nopImplied) (by decide) h
  | jam code => exact carried_isRow (mk := .jam) (by decide) h
  | anc code => exact carried_isRow (mk := .anc) (by decide) h
  | sha code => exact carried_isRow (mk := .sha) (by decide) h
  | tax | tay | txa | tya | tsx | txs | inx | iny | dex | dey | rts | pha | php | pla | plp | clc | sec | cli | sei | clv | cld
  | sed | nop | brk | rti | alr | arr | ane | tas | shy | shx | lxa | las | sbx => exact ⟨_, rfl, rfl, rfl⟩

theorem encode_of_opcode {i : Instr} {code : Byte} (h : i.opcode = some code) : encode i = code :: i.operandBytes := by
  rw [encode, h]

/-! The decoder by the shape of the row (R121). -/

theorem decode_implied {code : Byte} {j : Instr} (h : (opcodeRow code).shape = .implied j) (rest : List Byte) :
    decode (code :: rest) = .ok (j, rest) := by
  simp only [decode, h]

theorem decode_byte {code : Byte} {mk : Byte → Instr} (h : (opcodeRow code).shape = .byte mk) (op1 : Byte) (rest : List Byte) :
    decode (code :: op1 :: rest) = .ok (mk op1, rest) := by
  simp only [decode, h]

theorem decode_word {code : Byte} {mk : Addr → Instr} (h : (opcodeRow code).shape = .word mk) (op1 op2 : Byte) (rest : List Byte) :
    decode (code :: op1 :: op2 :: rest) = .ok (mk (wordOf op2 op1), rest) := by
  simp only [decode, h]

/-- The operand bytes are taken off the list as they were put on it (R121). -/
theorem decode_encode {i : Instr} (h : i.IsRow) (rest : List Byte) : decode (encode i ++ rest) = .ok (i, rest) := by
  obtain ⟨code, hcode, hrow⟩ := h
  rw [encode_of_opcode hcode]
  cases hshape : (opcodeRow code).shape with
  | implied j =>
    rw [hshape] at hrow
    obtain ⟨rfl, hbytes⟩ := hrow
    rw [hbytes]
    exact decode_implied hshape rest
  | byte mk =>
    rw [hshape] at hrow
    obtain ⟨b, rfl, hbytes⟩ := hrow
    rw [hbytes]
    exact decode_byte hshape b rest
  | word mk =>
    rw [hshape] at hrow
    obtain ⟨a, rfl, hbytes⟩ := hrow
    rw [hbytes]
    exact (decode_word hshape (loByte a) (hiByte a) rest).trans (by rw [wordOf_bytes])

/-- Whatever is decoded is well formed and has the bytes it was decoded from: `opcodeRow_good` says so of each shape. -/
theorem encode_of_decode {bytes rest : List Byte} {i : Instr} (h : decode bytes = .ok (i, rest)) :
    i.wellFormed = true ∧ encode i ++ rest = bytes := by
  cases bytes with
  | nil => cases h
  | cons code tail =>
    obtain ⟨hgood, hcode⟩ := opcodeRow_good code
    unfold Row.Good at hgood
    unfold decode at h
    cases hshape : (opcodeRow code).shape with
    | implied j =>
      simp only [hshape, hcode] at h hgood
      cases h
      obtain ⟨hwf, hopcode, hbytes⟩ := hgood
      rw [encode_of_opcode hopcode, hbytes]
      exact ⟨hwf, rfl⟩
    | byte mk =>
      simp only [hshape, hcode] at h hgood
      cases tail with
      | nil => cases h
      | cons op1 tail =>
        cases h
        obtain ⟨hwf, hopcode, hbytes⟩ := hgood op1
        rw [encode_of_opcode hopcode, hbytes]
        exact ⟨hwf, rfl⟩
    | word mk =>
      simp only [hshape, hcode] at h hgood
      match tail with
      | [] | [_] => cases h
      | op1 :: op2 :: tail =>
        cases h
        obtain ⟨hwf, hopcode, hbytes⟩ := hgood (wordOf op2 op1)
        rw [encode_of_opcode hopcode, hbytes, wordBytes, loByte_wordOf, hiByte_wordOf]
        exact ⟨hwf, rfl⟩

/-- No row takes more than two operand bytes (R122). -/
theorem decode_of_three (code op1 op2 : Byte) (tail : List Byte) : ∃ i rest, decode (code :: op1 :: op2 :: tail) = .ok (i, rest) := by
  cases hshape : (opcodeRow code).shape with
  | implied j => exact ⟨_, _, decode_implied hshape _⟩
  | byte mk => exact ⟨_, _, decode_byte hshape op1 _⟩
  | word mk => exact ⟨_, _, decode_word hshape op1 op2 _⟩

/-- Settles O1: a well-formed instruction is a row of the table, and a row is decoded from the bytes it encodes to. -/
theorem encodeThenDecode : Obligations.EncodeThenDecode := fun _ rest h => decode_encode (Instr.isRow_of_wellFormed h) rest

/-- Settles O2: every row of the table is good, and none needs more than three bytes. -/
theorem decodeThenEncode : Obligations.DecodeThenEncode := by
  refine fun bytes => ⟨fun i rest h => encode_of_decode h, fun hlen => ?_⟩
  match bytes, hlen with
  | code :: op1 :: op2 :: tail, _ => exact decode_of_three code op1 op2 tail

/-- Settles O3: each word is the encoding of its instruction, with nothing after it. -/
theorem wordsOfTheSpecDecode : Obligations.WordsOfTheSpecDecode := by
  refine ⟨encodeThenDecode (.lda (.imm 0x42)) [] rfl, encodeThenDecode (.sta (.abs 0x4014)) [] rfl,
    encodeThenDecode (.adc (.izy 0x10)) [] rfl, encodeThenDecode (.ror .acc) [] rfl, encodeThenDecode (.jmpInd 0x02FF) [] rfl,
    encodeThenDecode .plp [] rfl, encodeThenDecode (.lax (.zpy 0x10)) [] rfl⟩

end Sys2Proof
end

section
/-! Time, and what the whole machine keeps (40 R150, 49 R430 to R432): `BusTick` and the end of a tick, what every instruction keeps, and
the invariant through a step. -/

namespace Sys2Proof.Machine

/-! ### The synchroniser and the end of a tick -/

/-- With no input left the host leaves the joypad alone (R431). -/
theorem hostCallback_of_nil {s : State} (h : s.hostInputs = []) : (hostCallback s).joypad = s.joypad := by
  simp only [hostCallback, h]

/-- The host's next input becomes the button byte (R431, R432). -/
theorem hostCallback_of_cons {s : State} {b : Byte} {rest : List Byte} (h : s.hostInputs = b :: rest) :
    (hostCallback s).joypad.buttons = b ∧ (hostCallback s).hostInputs = rest := by
  simp only [hostCallback, h, and_self]

/-- Settles O8: the counter, the dots and the register file by the laws of `busTick`; the host is called when a dot reports. -/
theorem busTickAdvances : Obligations.BusTickAdvances := by
  intro s n
  refine ⟨busTick_busCycles s n, busTick_ppu s n, by simp, busTick_p s n, busTick_pc s n, busTick_cycles s n, busTick_run s n,
    busTick_ram s n, busTick_strobe s n, busTick_index s n, fun hquiet => ?_, fun hreport => ?_⟩
  · simp only [busTick, Config.dotsPerCycle, hquiet, notifyHost, Bool.false_eq_true, if_false, and_self]
  · simp only [busTick, Config.dotsPerCycle, hreport, notifyHost, if_true]
    exact ⟨hostCallback_callbacks _, fun hnil => hostCallback_of_nil hnil, fun b rest hcons => hostCallback_of_cons hcons⟩

/-- What a step never changes (R9, R51, R91, R93). -/
abbrev SameCartridge (s t : State) : Prop :=
  t.prgRom = s.prgRom ∧ t.prgSize = s.prgSize ∧ t.ppu.chrRom = s.ppu.chrRom ∧ t.ppu.mirroring = s.ppu.mirroring ∧ t.params = s.params

theorem SameCartridge.trans {s t u : State} (h : SameCartridge s t) (h' : SameCartridge t u) : SameCartridge s u := by
  obtain ⟨hrom, hsize, hchr, hmirroring, hparams⟩ := h
  obtain ⟨hrom', hsize', hchr', hmirroring', hparams'⟩ := h'
  exact ⟨hrom'.trans hrom, hsize'.trans hsize, hchr'.trans hchr, hmirroring'.trans hmirroring, hparams'.trans hparams⟩

theorem busTick_cartridge (n : Nat) (s : State) : SameCartridge s (busTick n s) := by
  obtain ⟨hchr, hmirroring⟩ := ppuTick_cartridge s.params.skipDot0 (3 * n) s.ppu
  refine ⟨busTick_prgRom s n, busTick_prgSize s n, ?_, ?_, busTick_params s n⟩
  · rw [busTick_ppu, hchr]
  · rw [busTick_ppu, hmirroring]

theorem busTick_sound (n : Nat) {s : State} (h : Sound s) : Sound (busTick n s) := by
  obtain ⟨hram, hprg, hp, hjoy, hppu⟩ := h
  refine ⟨?_, ?_, ?_, ?_, ?_⟩
  · simpa using hram
  · simpa using hprg
  · simpa using hp
  · simpa [Joypad.Inv] using hjoy
  · rw [busTick_ppu]
    exact ppuTick_inv _ _ hppu

/-- The end of a tick gives the bus the pending cycles, or does nothing where the machine has stopped (R157, R282). -/
theorem endTick_cases (s : State) : s.run = .running ∧ endTick s = busTick s.cycles s ∨ s.run ≠ .running ∧ endTick s = s := by
  unfold endTick
  split
  · next h => exact .inl ⟨h, rfl⟩
  · next h => exact .inr ⟨by simp [h], rfl⟩
  · next h => exact .inr ⟨by simp [h], rfl⟩

theorem endTick_running {s : State} (h : s.run = .running) : endTick s = busTick s.cycles s := by
  rw [endTick, h]

theorem endTick_stopped {s : State} (h : s.run ≠ .running) : endTick s = s :=
  (endTick_cases s).elim (fun hrun => absurd hrun.1 h) And.right

theorem endTick_cartridge (s : State) : SameCartridge s (endTick s) := by
  rcases endTick_cases s with ⟨-, h⟩ | ⟨-, h⟩ <;> rw [h]
  · exact busTick_cartridge _ s
  · exact ⟨rfl, rfl, rfl, rfl, rfl⟩

theorem endTick_sound {s : State} (h : Sound s) : Sound (endTick s) := by
  rcases endTick_cases s with ⟨-, hend⟩ | ⟨-, hend⟩ <;> rw [hend]
  · exact busTick_sound _ h
  · exact h

theorem endTick_cycles (s : State) : (endTick s).cycles = s.cycles := by
  rcases endTick_cases s with ⟨-, h⟩ | ⟨-, h⟩ <;> rw [h]
  exact busTick_cycles s _

theorem endTick_run (s : State) : (endTick s).run = s.run := by
  rcases endTick_cases s with ⟨-, h⟩ | ⟨-, h⟩ <;> rw [h]
  exact busTick_run s _

/-! ### What every instruction keeps -/

/-- The end of an instruction moves `pc` and adds the cost; what `Kept` says of the state before it, it says of the state after. -/
theorem Acts.frame {s t : State} (h : Acts s t) :
    SameHost s t ∧ StandsStill s.ppu t.ppu ∧ t.joypad.buttons = s.joypad.buttons ∧ t.run = s.run ∧ (Sound s → Sound t) ∧
    ∃ cost, 2 ≤ cost ∧ cost ≤ 8 ∧ t.cycles = s.cycles + cost := by
  obtain ⟨s1, cost, ⟨hhost, hppu, hbuttons, hcycles, hrun, -, hsound⟩, hlo, hhi, hend⟩ := h
  have hcost : s1.cycles + cost = s.cycles + cost := congrArg (· + cost) hcycles
  rcases hend with ⟨length, rfl⟩ | ⟨length, target, rfl⟩ <;> exact ⟨hhost, hppu, hbuttons, hrun, hsound, cost, hlo, hhi, hcost⟩

/-- What an instruction that goes on keeps, the BRK that halts included (R96). -/
theorem exec_frame {i : Instr} {s t : State} (h : exec i s = .next t) :
    SameHost s t ∧ StandsStill s.ppu t.ppu ∧ t.joypad.buttons = s.joypad.buttons ∧ (Sound s → Sound t) ∧ t.cycles ≤ s.cycles + 8 := by
  rcases exec_acts h with hacts | ⟨-, -, rfl⟩
  · obtain ⟨hhost, hppu, hbuttons, -, hsound, cost, -, hhi, hcycles⟩ := hacts.frame
    exact ⟨hhost, hppu, hbuttons, hsound, by omega⟩
  · exact ⟨⟨rfl, rfl, rfl, rfl, rfl, rfl⟩, ⟨rfl, rfl, rfl, rfl, rfl, rfl, rfl, rfl, rfl⟩, rfl, id, Nat.le_add_right _ _⟩

/-- An instruction after which the machine no longer runs is a BRK that halts (R29, R181). -/
theorem exec_stops {i : Instr} {s t : State} (h : exec i s = .next t) (hrun : s.run = .running) (hstop : t.run ≠ .running) :
    i = .brk ∧ s.params.brkMode = .halt ∧ t.run = .halted := by
  rcases exec_acts h with hacts | ⟨hbrk, hmode, rfl⟩
  · obtain ⟨-, -, -, hsame, -⟩ := hacts.frame
    exact absurd (hsame.trans hrun) hstop
  · exact ⟨hbrk, hmode, rfl⟩

/-- Settles O60: it is part of what every instruction keeps. -/
theorem ppuStandsStillInInstructions : Obligations.PpuStandsStillInInstructions := by
  intro i s t h
  obtain ⟨⟨hbus, -, -, -, hinputs, hcallbacks⟩, ⟨hline, hdot, hnmi, hframe, hdone, hsprites, -⟩, hbuttons, -⟩ := exec_frame h
  exact ⟨hline, hdot, hnmi, hframe, hdone, hsprites, hbus, hcallbacks, hinputs, hbuttons⟩

/-! ### One step -/

/-- The fields that an NMI entry leaves as the step found them, before its cycles are given to the bus (R433, R470). -/
theorem nmiEntered_pollNmi_cartridge (s : State) : SameCartridge s (nmiEntered (pollNmi s)) := by
  obtain ⟨-, -, -, -, hppu, -, -, hrom, hsize, hparams, -⟩ := nmiEntered_frame (pollNmi s)
  refine ⟨hrom, hsize, ?_, ?_, hparams⟩ <;> rw [hppu] <;> rfl

theorem nmiEntered_sound {s : State} (h : Sound s) : Sound (nmiEntered s) := by
  obtain ⟨-, -, -, -, -, -, hsound⟩ := takeInterrupt_kept s.pc (withoutBreak s.p) Config.nmiVector s
  exact hsound h

/-- Settles O59: a step is nothing, a stalling tick, an NMI entry or one instruction, and none writes the cartridge. -/
theorem stepKeepsCartridge : Obligations.StepKeepsCartridge := by
  intro s t h
  suffices hparts : SameCartridge s t ∧
      (s.run = .running → t.run ≠ .running → t.run = .halted ∧ s.params.brkMode = .halt ∧ fetched s = .brk) by
    obtain ⟨⟨hrom, hsize, hchr, hmirroring, hparams⟩, hstop⟩ := hparts
    exact ⟨hrom, hsize, hchr, hmirroring, hparams, hstop⟩
  rcases step_cases h with ⟨hrun, rfl⟩ | ⟨hrun, -, rfl⟩ | ⟨hrun, -, -, rfl⟩ | ⟨-, u, hexec, rfl⟩
  · exact ⟨⟨rfl, rfl, rfl, rfl, rfl⟩, fun h => absurd h hrun⟩
  · exact ⟨⟨rfl, rfl, rfl, rfl, rfl⟩, fun _ h => absurd hrun h⟩
  · rw [interruptNmi_eq]
    obtain ⟨-, -, -, hsame, -⟩ := nmiEntered_frame (pollNmi s)
    refine ⟨(nmiEntered_pollNmi_cartridge s).trans (busTick_cartridge 7 _), fun _ hstop => absurd ?_ hstop⟩
    rw [busTick_run, hsame]
    exact hrun
  · obtain ⟨⟨-, hrom, hsize, hparams, -⟩, ⟨-, -, -, -, -, -, -, hchr, hmirroring⟩, -⟩ := exec_frame hexec
    have hcart : SameCartridge s u := ⟨hrom, hsize, hchr, hmirroring, hparams⟩
    refine ⟨hcart.trans (endTick_cartridge u), fun hrun hstop => ?_⟩
    rw [endTick_run] at hstop ⊢
    obtain ⟨hbrk, hmode, hhalted⟩ := exec_stops hexec hrun hstop
    exact ⟨hhalted, hmode, hbrk⟩

/-- The invariant is soundness and the bound of the pending counter. -/
theorem inv_iff (s : State) : s.Inv ↔ Sound s ∧ s.cycles ≤ 8 :=
  ⟨fun ⟨hram, hprg, hp, hcycles, hjoy, hppu⟩ => ⟨⟨hram, hprg, hp, hjoy, hppu⟩, hcycles⟩,
    fun ⟨⟨hram, hprg, hp, hjoy, hppu⟩, hcycles⟩ => ⟨hram, hprg, hp, hcycles, hjoy, hppu⟩⟩

/-- Settles O58: each of the four cases of a step keeps it; an instruction and an NMI entry begin with no cycle pending and add at most 8. -/
theorem stepKeepsInvariant : Obligations.StepKeepsInvariant := by
  intro s t hinv h
  obtain ⟨hsound, hcycles⟩ := (inv_iff s).mp hinv
  rcases step_cases h with ⟨-, rfl⟩ | ⟨-, -, rfl⟩ | ⟨-, hidle, -, rfl⟩ | ⟨⟨-, hidle, -⟩, u, hexec, rfl⟩
  · exact hinv
  · exact (inv_iff _).mpr ⟨hsound, (Nat.sub_le _ _).trans hcycles⟩
  · rw [interruptNmi_eq]
    refine (inv_iff _).mpr ⟨busTick_sound 7 (nmiEntered_sound (s := pollNmi s) hsound), ?_⟩
    rw [busTick_cycles, nmiEntered_cycles, pollNmi_cycles, hidle]
    decide
  · obtain ⟨-, -, -, hkeeps, hcost⟩ := exec_frame hexec
    refine (inv_iff _).mpr ⟨endTick_sound (hkeeps hsound), ?_⟩
    rw [endTick_cycles]
    exact hcost.trans_eq (congrArg (· + 8) hidle)

/-- Settles O13: the fetching tick runs one instruction, whose cost is 2 to 8, and then gives the bus that many cycles. -/
theorem stepAccountsForTime : Obligations.StepAccountsForTime := by
  intro s t ⟨hrun, hidle, hnmi⟩ h hgoes
  rcases step_cases h with ⟨hstopped, -⟩ | ⟨-, hstall, -⟩ | ⟨-, -, hpending, -⟩ | ⟨-, u, hexec, rfl⟩
  · exact absurd hrun hstopped
  · omega
  · exact absurd (hpending.symm.trans hnmi) (by decide)
  · rw [endTick_run] at hgoes
    rcases exec_acts hexec with hacts | ⟨-, -, rfl⟩
    · obtain ⟨⟨hbus, -⟩, -, -, -, -, cost, hlo, hhi, hcycles⟩ := hacts.frame
      have hcost : u.cycles = cost := hcycles.trans (by rw [hidle, Nat.zero_add])
      have hbus' : u.busCycles = s.busCycles := hbus
      rw [endTick_running hgoes, busTick_busCycles, busTick_cycles]
      omega
    · cases hgoes

/-- Settles O6: the first two questions of `tick`. -/
theorem stallingAndStoppedTicks : Obligations.StallingAndStoppedTicks := by
  refine fun s => ⟨fun hrun hstall => ?_, fun hstopped => ?_⟩
  · simp only [step, tick, hrun, hstall, if_true]
  · unfold step tick
    split
    · rfl
    · rfl
    · next hrun => exact absurd hrun hstopped

end Sys2Proof.Machine
end

section
/-! The fetch (40 R150 to R157, 93 U7): a tick that fetches decodes the instruction that lies at `pc`, refuses the first byte it cannot
read, and otherwise runs it; and the values of a core after reset (10 R55). -/

namespace Sys2Proof.Machine

/-! ### Which instruction is fetched -/

/-- An instruction is at least its opcode byte, and at most three bytes long (R122). -/
theorem length_encode {i : Instr} (h : i.wellFormed = true) :
    (encode i).length = i.operandBytes.length + 1 ∧ i.operandBytes.length ≤ 2 := by
  obtain ⟨code, hcode, hrow⟩ := Instr.isRow_of_wellFormed h
  rw [encode_of_opcode hcode]
  refine ⟨rfl, ?_⟩
  cases hshape : (opcodeRow code).shape with
  | implied j =>
    rw [hshape] at hrow
    obtain ⟨-, hbytes⟩ := hrow
    simp [hbytes]
  | byte mk =>
    rw [hshape] at hrow
    obtain ⟨b, -, hbytes⟩ := hrow
    simp [hbytes]
  | word mk =>
    rw [hshape] at hrow
    obtain ⟨a, -, hbytes⟩ := hrow
    simp [hbytes, wordBytes]

/-- The three bytes at `pc`, of which the first ones are an instruction's, decode to it, whatever the others are (R154). -/
theorem fetched_of_holds {s : State} {i : Instr} (hwf : i.wellFormed = true) (h : s.Holds i) : fetched s = i := by
  obtain ⟨code, hcode, hrow⟩ := Instr.isRow_of_wellFormed hwf
  have hbyte : ∀ k : Fin 3, ∀ b, (code :: i.operandBytes)[k.val]? = some b → peek s (s.pc + BitVec.ofNat 16 k.val) = b := by
    intro k b hb
    rw [← encode_of_opcode hcode] at hb
    obtain ⟨hlt, -⟩ := List.getElem?_eq_some_iff.mp hb
    exact Option.some.inj ((h k hlt).symm.trans hb)
  have hop : peek s s.pc = code := by simpa using hbyte 0 code rfl
  unfold fetched decode3
  rw [hop]
  cases hshape : (opcodeRow code).shape with
  | implied j =>
    rw [hshape] at hrow
    exact hrow.1
  | byte mk =>
    rw [hshape] at hrow
    obtain ⟨b, hmk, hbytes⟩ := hrow
    have h1 : peek s (s.pc + 1) = b := hbyte 1 b (by rw [hbytes]; rfl)
    rw [h1]
    exact hmk
  | word mk =>
    rw [hshape] at hrow
    obtain ⟨a, hmk, hbytes⟩ := hrow
    have h1 : peek s (s.pc + 1) = loByte a := hbyte 1 (loByte a) (by rw [hbytes]; rfl)
    have h2 : peek s (s.pc + 2) = hiByte a := hbyte 2 (hiByte a) (by rw [hbytes]; rfl)
    rw [h1, h2]
    exact (congrArg mk (wordOf_bytes a)).trans hmk

/-! ### Which of its bytes is refused -/

/-- A tick that fetches is `runInstruction` (R153). -/
theorem step_of_fetches {s : State} (h : s.Fetches) : step s = runInstruction exec s := by
  obtain ⟨hrun, hidle, hnmi⟩ := h
  simp only [step, tick, hrun, hidle, hnmi, Nat.lt_irrefl, Bool.false_eq_true, if_false]

theorem step_refused {s : State} {a : Addr} (h : s.Fetches) (hbyte : refusedByte (fetched s) s = some a) :
    step s = .refused (.instructionByteAt a) := by
  simp only [step_of_fetches h, runInstruction, hbyte]

theorem step_executes {s : State} (h : s.Fetches) (hbyte : refusedByte (fetched s) s = none) :
    step s = andThen (exec (fetched s) { s with pc := s.pc + 1 }) fun t => .next (endTick t) := by
  simp only [step_of_fetches h, runInstruction, hbyte]

/-- The bytes that are looked at are those of the instruction in order, unless it is a branch that is not taken (R121, R170). -/
theorem fetchAddrs_eq {i : Instr} {s : State} (hwf : i.wellFormed = true) (h : branchNotTaken i s = false) :
    s.pc :: operandAddrs i s = (List.range (encode i).length).map fun k => s.pc + BitVec.ofNat 16 k := by
  have hzero : s.pc + BitVec.ofNat 16 0 = s.pc := BitVec.add_zero _
  rw [(length_encode hwf).1, List.range_succ_eq_map, List.map_cons, List.map_map, hzero, operandAddrs, h]
  simp only [Bool.false_eq_true, if_false, add_one_add_ofNat, Function.comp_def, Nat.succ_eq_add_one]

/-- Byte `k` is the one refused exactly when it is the first that cannot be read (U7). -/
theorem refusedByte_eq_some {i : Instr} {s : State} (hwf : i.wellFormed = true) (htaken : branchNotTaken i s = false) {k : Nat}
    (hk : k < (encode i).length) (hbefore : ∀ j < k, sideEffectRead (s.pc + BitVec.ofNat 16 j) = false)
    (hat : sideEffectRead (s.pc + BitVec.ofNat 16 k) = true) : refusedByte i s = some (s.pc + BitVec.ofNat 16 k) := by
  have hfirst : (List.range (encode i).length).find? (fun k => sideEffectRead (s.pc + BitVec.ofNat 16 k)) = some k := by
    rw [List.find?_range_eq_some]
    exact ⟨hat, List.mem_range.mpr hk, fun j hj => by rw [hbefore j hj]; rfl⟩
  rw [refusedByte, fetchAddrs_eq hwf htaken, List.find?_map]
  exact congrArg (Option.map _) hfirst

/-- Of an instruction that can be read whole, no byte is refused, read or not. -/
theorem refusedByte_of_fetchable {i : Instr} {s : State} (hwf : i.wellFormed = true) (h : s.Fetchable i) : refusedByte i s = none := by
  obtain ⟨hlen, hmax⟩ := length_encode hwf
  have hall : ∀ k < (encode i).length, sideEffectRead (s.pc + BitVec.ofNat 16 k) = false := fun k hk => h ⟨k, by omega⟩ hk
  have hpc : sideEffectRead s.pc = false := by simpa using hall 0 (by omega)
  have hops : ∀ a ∈ operandAddrs i s, ¬ sideEffectRead a = true := by
    cases htaken : branchNotTaken i s with
    | true => simp [operandAddrs, htaken]
    | false =>
      intro a ha
      have hmem : a ∈ s.pc :: operandAddrs i s := List.mem_cons_of_mem _ ha
      rw [fetchAddrs_eq hwf htaken, List.mem_map] at hmem
      obtain ⟨k, hk, rfl⟩ := hmem
      rw [hall k (List.mem_range.mp hk)]
      exact Bool.false_ne_true
  rw [refusedByte, List.find?_cons_of_neg (by rw [hpc]; exact Bool.false_ne_true)]
  exact List.find?_eq_none.mpr hops

/-- Settles O4: the fetched instruction is `i`, nothing of it is refused, and `endTick` does what follows it. -/
theorem stepRunsDecoded : Obligations.StepRunsDecoded := by
  intro s i hfetches hwf hholds hfetchable
  have hfetched := fetched_of_holds hwf hholds
  have hstep := step_executes hfetches (by rw [hfetched]; exact refusedByte_of_fetchable hwf hfetchable)
  rw [hfetched] at hstep
  refine ⟨fun t hexec => ⟨fun hrun => ?_, fun hstop => ?_⟩, fun e hexec => ?_, fun e hexec => ?_⟩ <;> rw [hstep, hexec]
  · exact congrArg Host.Outcome.next (endTick_running hrun)
  · exact congrArg Host.Outcome.next (endTick_stopped hstop)
  · rfl
  · rfl

/-! ### Branches whose operand byte cannot be read -/

theorem branchNotTaken_of_no_displacement {i : Instr} (h : i.displacement = none) (s : State) : branchNotTaken i s = false := by
  unfold branchNotTaken
  split
  case h_9 => rfl
  all_goals cases h

/-- A branch whose operand byte cannot be read is refused if it is taken, and goes on, unread, if it is not (R170, D17). -/
theorem branch_unfetchable {s : State} {i : Instr} {d : Byte} {taken : Bool} (hfetches : s.Fetches) (hwf : i.wellFormed = true)
    (hlen : (encode i).length = 2) (hnot : branchNotTaken i s = !taken)
    (hexec : exec i { s with pc := s.pc + 1 } = branch taken d { s with pc := s.pc + 1 }) (hholds : s.Holds i)
    (hop : sideEffectRead s.pc = false) (hoperand : sideEffectRead (s.pc + 1) = true) :
    (taken = true → step s = .refused (.instructionByteAt (s.pc + 1))) ∧
    (taken = false → step s = .next (busTick 2 { s with pc := s.pc + 2, cycles := 2 })) := by
  have hfetched := fetched_of_holds hwf hholds
  refine ⟨?_, ?_⟩ <;> rintro rfl
  · refine step_refused hfetches ?_
    rw [hfetched]
    refine refusedByte_eq_some hwf hnot (k := 1) (by omega) (fun j hj => ?_) hoperand
    obtain rfl : j = 0 := by omega
    simpa using hop
  · have hread : refusedByte (fetched s) s = none := by
      rw [hfetched]
      simp [refusedByte, operandAddrs, hnot, hop]
    rw [step_executes hfetches hread, hfetched, hexec]
    obtain ⟨hrun, hidle, -⟩ := hfetches
    have hdone : complete 2 2 { s with pc := s.pc + 1 } = { s with pc := s.pc + 2, cycles := 2 } := by
      simp only [complete, hidle, BitVec.add_assoc]
      rfl
    refine congrArg Host.Outcome.next ?_
    rw [hdone]
    exact endTick_running hrun

/-- Settles O5: the refused byte is the first of those looked at, which are all of an instruction's but for a branch not taken. -/
theorem unfetchableBytes : Obligations.UnfetchableBytes := by
  intro s hfetches
  refine ⟨fun hpc => ?_, fun i k hwf hholds hk hbefore hat hdisp => ?_, fun d i taken hmem hholds hop hoperand => ?_⟩
  · refine step_refused hfetches ?_
    rw [refusedByte, List.find?_cons_of_pos hpc]
  · refine step_refused hfetches ?_
    rw [fetched_of_holds hwf hholds]
    exact refusedByte_eq_some hwf (branchNotTaken_of_no_displacement hdisp s) hk
      (fun j hj => hbefore ⟨j, hj.trans k.isLt⟩ hj) hat
  · simp only [List.mem_cons, List.not_mem_nil, or_false, Prod.mk.injEq] at hmem
    rcases hmem with ⟨rfl, rfl⟩ | ⟨rfl, rfl⟩ | ⟨rfl, rfl⟩ | ⟨rfl, rfl⟩ | ⟨rfl, rfl⟩ | ⟨rfl, rfl⟩ | ⟨rfl, rfl⟩ | ⟨rfl, rfl⟩ <;>
      exact branch_unfetchable (d := d) hfetches rfl rfl (by simp [branchNotTaken, State.flag]) rfl hholds hop hoperand

/-! ### After reset -/

/-- Settles O55: every register and latch is a literal of `State.reset`, and the memories and pictures are empty lists. -/
theorem resetValues : Obligations.ResetValues := by
  have hram : ∀ a : Addr, a ≤ 0x1FFF#16 → peek State.reset a = 0x00 := fun a ha => (peek_ram ha).trans rfl
  have hsprites : ∀ q ∈ State.reset.ppu.sprites, q = SpriteUnit.empty := fun q hq => List.eq_of_mem_replicate hq
  exact ⟨rfl, rfl, rfl, rfl, rfl, by decide, hram, ⟨rfl, rfl, rfl⟩, ⟨rfl, rfl, rfl, rfl⟩, ⟨rfl, rfl, rfl, rfl, rfl⟩, ⟨rfl, rfl, rfl, rfl⟩,
    ⟨rfl, rfl, rfl, rfl⟩, hsprites, ⟨rfl, rfl, rfl, rfl⟩, fun _ => ⟨rfl, rfl, rfl, rfl, rfl⟩, ⟨rfl, rfl, rfl⟩⟩

/-- Settles O57: the empty memories and pictures are canonical, and the rest is a comparison of literals. -/
theorem resetSatisfiesInvariant : Obligations.ResetSatisfiesInvariant := by
  unfold Obligations.ResetSatisfiesInvariant
  decide

end Sys2Proof.Machine
end

section
/-! The instructions that read, store or modify an operand (40 R160 to R174, 41 to 43, 46): the address and the value of each operand form,
then the three shapes of a memory instruction, each with the register file it writes, and every instruction as one of them. -/

namespace Sys2Proof.Machine

/-! ### Addresses and values of the operand forms -/

theorem zext16_toNat (b : Byte) : (zext16 b).toNat = b.toNat := by
  rw [zext16, BitVec.toNat_setWidth, Nat.mod_eq_of_lt (b.isLt.trans (by decide))]

/-- Page 0 lies in RAM (R75). -/
theorem zext16_le (b : Byte) : zext16 b ≤ 0x1FFF#16 := by
  have hlt := b.isLt
  rw [BitVec.le_def, zext16_toNat]
  exact Nat.le_of_lt (hlt.trans (by decide))

theorem ramCell_zext16 (b : Byte) : ramCell (zext16 b) = b.toNat := by
  rw [ramCell, zext16_toNat]
  exact Nat.mod_eq_of_lt (b.isLt.trans (by decide))

theorem peek_zeroPage (s : State) (b : Byte) : peek s (zext16 b) = s.ram.read b.toNat := by
  rw [peek_ram (zext16_le b), ramCell_zext16]

/-- A zero-page pointer, whose high byte wraps in page 0 (R167, R168). -/
theorem zeroPagePointer_toNat (s : State) (b : Byte) :
    (zeroPagePointer s b).toNat = 256 * (s.ram.read ((b.toNat + 1) % 256)).toNat + (s.ram.read b.toNat).toNat := by
  rw [zeroPagePointer, wordOf_toNat, peek_zeroPage, peek_zeroPage, BitVec.toNat_add]
  rfl

/-- An indexed address wraps at 16 bits, and crosses a page when its high byte is not the base's (R165, R172). -/
theorem indexed_spec (base : Addr) (index : Byte) :
    (indexed base index).addr.toNat = (base.toNat + index.toNat) % 65536 ∧
    (indexed base index).crossed = decide ((indexed base index).addr.toNat / 256 ≠ base.toNat / 256) := by
  refine ⟨?_, ?_⟩
  · rw [indexed, BitVec.toNat_add, zext16_toNat]
  · rw [indexed, pageCrossed_eq, decide_eq_decide]
    exact ne_comm

theorem operandValue_of_not_imm {o : Operand} (h : ∀ v, o ≠ .imm v) (e : Effective) (s : State) : operandValue o e s = peek s e.addr := by
  unfold operandValue
  split
  · exact absurd rfl (h _)
  · rfl

theorem afterOperand_of_not_imm {o : Operand} (h : ∀ v, o ≠ .imm v) (e : Effective) (s : State) :
    afterOperand o e s = afterRead s e.addr := by
  unfold afterOperand
  split
  · exact absurd rfl (h _)
  · rfl

/-- Settles O14: the zero-page forms add at 8 bits, the absolute ones at 16, and the indirect ones read a pointer in page 0. -/
theorem effectiveAddresses : Obligations.EffectiveAddresses := by
  intro s b w
  refine ⟨rfl, ⟨_, rfl, zext16_toNat b, rfl⟩, ⟨_, rfl, ?_, rfl⟩, ⟨_, rfl, ?_, rfl⟩, rfl, ⟨_, rfl, indexed_spec w s.x⟩,
    ⟨_, rfl, indexed_spec w s.y⟩, ⟨_, rfl, rfl, ?_⟩, ⟨_, rfl, ?_⟩, rfl, fun _ => ⟨rfl, rfl⟩,
    fun o e h => ⟨operandValue_of_not_imm h e s, afterOperand_of_not_imm h e s⟩⟩
  · rw [zext16_toNat, BitVec.toNat_add]
  · rw [zext16_toNat, BitVec.toNat_add]
  · rw [zeroPagePointer_toNat, BitVec.toNat_add, Nat.mod_add_mod]
  · rw [← zeroPagePointer_toNat]
    exact indexed_spec (zeroPagePointer s b) s.y

/-! ### The register file that an instruction writes -/

/-- In every state with the register file of `s`, `f` writes these registers and this status, and nothing else. -/
def WritesFile (f : State → State) (s : State) (a x y sp p : Byte) : Prop :=
  ∀ t : State, f { t with a := s.a, x := s.x, y := s.y, sp := s.sp, p := s.p } = { t with a := a, x := x, y := y, sp := sp, p := p }

theorem WritesFile.apply {f : State → State} {s t : State} {a x y sp p : Byte} (h : WritesFile f s a x y sp p)
    (hregs : t.registers = s.registers) (hp : t.p = s.p) : f t = { t with a := a, x := x, y := y, sp := sp, p := p } := by
  obtain ⟨ha, hx, hy, hsp⟩ : t.a = s.a ∧ t.x = s.x ∧ t.y = s.y ∧ t.sp = s.sp := by simpa using hregs
  have ht := h t
  rw [← ha, ← hx, ← hy, ← hsp, ← hp] at ht
  exact ht

theorem afterOperand_cpu (o : Operand) (e : Effective) (s : State) :
    (afterOperand o e s).registers = s.registers ∧ (afterOperand o e s).p = s.p ∧ (afterOperand o e s).pc = s.pc ∧
    (afterOperand o e s).cycles = s.cycles := by
  unfold afterOperand
  split
  · exact ⟨rfl, rfl, rfl, rfl⟩
  · simp

section
variable {i : Instr} {o : Operand} {e : Effective} {s : State} {a x y sp p : Byte}

/-- An instruction that reads its operand (R173): what it writes is in the register file, and the rest is as the read leaves it. -/
theorem exec_reads {f : Byte → State → State} (he : effective o s = some e) (hexec : exec i s = readOperand o f s)
    (hf : WritesFile (f (operandValue o e s)) s a x y sp p) :
    ∃ t, exec i s = .next t ∧ t.registers = (a, x, y, sp) ∧ t.p = p ∧ Quiet (afterOperand o e s) t ∧
      t.pc = s.pc + BitVec.ofNat 16 o.bytes.length := by
  obtain ⟨hregs, hp, hpc, -⟩ := afterOperand_cpu o e s
  refine ⟨_, hexec.trans (readOperand_eq he f), ?_⟩
  rw [hf.apply hregs hp]
  refine ⟨rfl, rfl, quiet_of ⟨rfl, rfl, rfl, rfl, rfl, rfl⟩ rfl rfl rfl rfl, ?_⟩
  rw [complete_pc, operand_length, Nat.add_sub_cancel]
  exact congrArg (· + _) hpc

/-- A reading instruction that writes Z and N of a value. -/
theorem exec_reads_zn {f : Byte → State → State} {v : Byte} (he : effective o s = some e) (hexec : exec i s = readOperand o f s)
    (hf : WritesFile (f (operandValue o e s)) s a x y sp (zn s.p v)) :
    ∃ t, exec i s = .next t ∧ t.registers = (a, x, y, sp) ∧ SetsZN s.p t.p v ∧ Quiet (afterOperand o e s) t ∧
      t.pc = s.pc + BitVec.ofNat 16 o.bytes.length := by
  obtain ⟨t, hnext, hregs, hp, hframe⟩ := exec_reads he hexec hf
  exact ⟨t, hnext, hregs, hp ▸ zn_sets s.p v, hframe⟩

/-- An instruction that modifies its operand below `$8000` (R240, R300): one read, one store, and then the register file. -/
theorem exec_modifies {r : Byte → Byte} {f : Byte → Byte → State → State} (hinv : s.Inv) (he : effective o s = some e)
    (hb : e.addr < 0x8000#16) (ho : ∀ v, o ≠ .imm v) (hexec : exec i s = modifyOperand o r f s)
    (hf : WritesFile (f (peek s e.addr) (r (peek s e.addr))) s a x y sp p) :
    ∃ t, exec i s = .next t ∧ Stored (afterRead s e.addr) t e.addr (r (peek s e.addr)) ∧ t.registers = (a, x, y, sp) ∧ t.p = p ∧
      SameHost s t ∧ t.run = s.run ∧ t.pc = s.pc + BitVec.ofNat 16 o.bytes.length := by
  obtain ⟨⟨hwf, -⟩, -⟩ := hinv
  obtain ⟨s1, hnext, hregs, hp, hpc, -, hrun, hhost, hstored⟩ := modifyOperand_below he hb r f
  rw [operandValue_of_not_imm ho, hf.apply hregs hp] at hnext
  rw [operandValue_of_not_imm ho, afterOperand_of_not_imm ho] at hstored
  refine ⟨_, hexec.trans hnext, ?_, rfl, rfl, hhost, hrun, ?_⟩
  · have hpeek : ∀ length cost k,
        peek (complete length cost { s1 with a := a, x := x, y := y, sp := sp, p := p }) k = peek s1 k :=
      fun length cost k => peek_congr rfl rfl rfl rfl rfl rfl k
    simp only [Stored, SameMemory, hpeek]
    exact hstored hwf
  · rw [complete_pc, operand_length, Nat.add_sub_cancel]
    exact congrArg (· + _) hpc

end

/-! ### Loads and stores (41, 46) -/

/-- Settles O16: each of the four writes its operand to its registers and Z and N of it to the status. -/
theorem loadInstructions : Obligations.LoadInstructions := by
  intro s o e he i r h _
  simp only [List.mem_cons, List.not_mem_nil, or_false, Prod.mk.injEq] at h
  rcases h with ⟨rfl, rfl⟩ | ⟨rfl, rfl⟩ | ⟨rfl, rfl⟩ | ⟨rfl, rfl⟩
  · exact exec_reads_zn (f := fun m s => s.writeA m) he rfl fun _ => rfl
  · exact exec_reads_zn (f := fun m s => s.writeX m) he rfl fun _ => rfl
  · exact exec_reads_zn (f := fun m s => s.writeY m) he rfl fun _ => rfl
  · have hf : WritesFile (fun t => (t.writeA (operandValue o e s)).writeX (operandValue o e s)) s (operandValue o e s)
        (operandValue o e s) s.y s.sp (zn (zn s.p (operandValue o e s)) (operandValue o e s)) := fun _ => rfl
    obtain ⟨t, hnext, hregs, hp, hframe⟩ := exec_reads (i := .lax o) (f := fun m s => (s.writeA m).writeX m) he rfl hf
    exact ⟨t, hnext, hregs, hp ▸ sets_zn_zn s.p (operandValue o e s), hframe⟩

/-- An instruction that stores `v` (R193), on both sides of `$8000`. -/
theorem exec_stores {i : Instr} {o : Operand} {e : Effective} {s : State} {v : Byte} (hinv : s.Inv) (he : effective o s = some e)
    (hexec : exec i s = storeOperand o v s) :
    (e.addr < 0x8000#16 → ∃ t, exec i s = .next t ∧ Stored s t e.addr v ∧ t.registers = s.registers ∧ t.p = s.p ∧
      SameHost s t ∧ t.run = s.run ∧ t.pc = s.pc + BitVec.ofNat 16 o.bytes.length) ∧
    (0x8000#16 ≤ e.addr → exec i s = .fault (.romWrite e.addr v)) := by
  obtain ⟨⟨hwf, -⟩, -⟩ := hinv
  refine ⟨fun hb => ?_, fun hrom => hexec.trans (storeOperand_rom he hrom v)⟩
  obtain ⟨t, hnext, hregs, hp, hpc, -, hrun, hhost, hstored⟩ := storeOperand_below he hb v
  exact ⟨t, hexec.trans hnext, hstored hwf, hregs, hp, hhost, hrun, hpc⟩

/-- Settles O17: each of the four is `exec_stores` of its register. -/
theorem storeInstructions : Obligations.StoreInstructions := by
  intro s o e hinv he i v h _
  simp only [List.mem_cons, List.not_mem_nil, or_false, Prod.mk.injEq] at h
  rcases h with ⟨rfl, rfl⟩ | ⟨rfl, rfl⟩ | ⟨rfl, rfl⟩ | ⟨rfl, rfl⟩ <;> exact exec_stores hinv he rfl

/-! ### Arithmetic and logic (42) -/

/-- The result of `AddWithCarry` and its status go to A and P, whatever read the operand. -/
theorem exec_adds {i : Instr} {o : Operand} {e : Effective} {s : State} {g : Byte → Byte} (he : effective o s = some e)
    (hexec : exec i s = readOperand o (fun m s => s.addWithCarry (g m)) s) :
    ∃ t, exec i s = .next t ∧ t.a = addResult s.a (g (operandValue o e s)) (flagOf s.p .c) ∧
      t.p = addStatus s.p s.a (g (operandValue o e s)) ∧ t.registers = (t.a, s.x, s.y, s.sp) ∧ Quiet (afterOperand o e s) t ∧
      t.pc = s.pc + BitVec.ofNat 16 o.bytes.length := by
  have hf : WritesFile (fun t => t.addWithCarry (g (operandValue o e s))) s
      (addResult s.a (g (operandValue o e s)) (flagOf s.p .c)) s.x s.y s.sp (addStatus s.p s.a (g (operandValue o e s))) :=
    fun _ => rfl
  obtain ⟨t, hnext, hregs, hp, hframe⟩ := exec_reads he hexec hf
  have ha : t.a = addResult s.a (g (operandValue o e s)) (flagOf s.p .c) := congrArg Prod.fst hregs
  exact ⟨t, hnext, ha, hp, ha ▸ hregs, hframe⟩

/-- Settles O19: ADC adds the operand and the SBCs its complement, with the carry; `added` and `subtracted` say it in integers. -/
theorem addAndSubtract : Obligations.AddAndSubtract := by
  intro s o e he
  refine ⟨fun i hi _ => ?_, fun i hi _ => ?_⟩
  · obtain rfl := hi
    obtain ⟨t, hnext, ha, hp, hframe⟩ := exec_adds (i := .adc o) (g := fun m => m) he rfl
    refine ⟨t, hnext, ?_, hframe⟩
    rw [ha, hp]
    exact added s.p s.a (operandValue o e s)
  · have hexec : exec i s = readOperand o (fun m s => s.addWithCarry (~~~m)) s := by
      rcases hi with rfl | ⟨v, rfl, rfl⟩ <;> rfl
    obtain ⟨t, hnext, ha, hp, hframe⟩ := exec_adds (g := fun m => ~~~m) he hexec
    refine ⟨t, hnext, ?_, hframe⟩
    rw [ha, hp]
    exact subtracted s.p s.a (operandValue o e s)

/-- A logical instruction writes A and Z and N of it. -/
theorem exec_logic {i : Instr} {o : Operand} {e : Effective} {s : State} {op : Byte → Byte → Byte} {f : Bool → Bool → Bool}
    (hbits : ∀ v w : Byte, ∀ k < 8, (op v w).getLsbD k = f (v.getLsbD k) (w.getLsbD k)) (he : effective o s = some e)
    (hexec : exec i s = readOperand o (fun m s => s.writeA (op s.a m)) s) :
    ∃ t, exec i s = .next t ∧ (∀ k < 8, t.a.getLsbD k = f (s.a.getLsbD k) ((operandValue o e s).getLsbD k)) ∧
      t.registers = (t.a, s.x, s.y, s.sp) ∧ SetsZN s.p t.p t.a ∧ Quiet (afterOperand o e s) t ∧
      t.pc = s.pc + BitVec.ofNat 16 o.bytes.length := by
  have hf : WritesFile (fun t => t.writeA (op t.a (operandValue o e s))) s (op s.a (operandValue o e s)) s.x s.y s.sp
      (zn s.p (op s.a (operandValue o e s))) := fun _ => rfl
  obtain ⟨t, hnext, hregs, hp, hframe⟩ := exec_reads_zn he hexec hf
  have ha : t.a = op s.a (operandValue o e s) := congrArg Prod.fst hregs
  exact ⟨t, hnext, ha ▸ hbits s.a _, ha ▸ hregs, ha ▸ hp, hframe⟩

/-- Settles O20: the three bitwise operations on bit vectors are those on bits. -/
theorem logicInstructions : Obligations.LogicInstructions := by
  intro s o e he i f h _
  rcases h with ⟨rfl, rfl⟩ | ⟨rfl, rfl⟩ | ⟨rfl, rfl⟩
  · exact exec_logic (op := fun v w => v &&& w) (fun v w k _ => BitVec.getLsbD_and) he rfl
  · exact exec_logic (op := fun v w => v ||| w) (fun v w k _ => BitVec.getLsbD_or) he rfl
  · exact exec_logic (op := fun v w => v ^^^ w) (fun v w k _ => BitVec.getLsbD_xor) he rfl

/-- The flags of BIT (R220). -/
theorem bit_flags (p a m : Byte) :
    flagOf (bitStatus p a m) .z = decide (a &&& m = 0) ∧ flagOf (bitStatus p a m) .n = m.getLsbD 7 ∧
    flagOf (bitStatus p a m) .v = m.getLsbD 6 ∧ KeepsFlagsBut p (bitStatus p a m) [.z, .n, .v] := by
  refine ⟨by simp [flagOf_bitStatus], by simp [flagOf_bitStatus], by simp [flagOf_bitStatus], fun f hf => ?_⟩
  simp only [List.mem_cons, List.not_mem_nil, or_false, not_or] at hf
  simp [flagOf_bitStatus, hf]

/-- A comparison writes the status only (R216). -/
theorem exec_compares {i : Instr} {o : Operand} {e : Effective} {s : State} {v : Byte} {reg : State → Byte} (he : effective o s = some e)
    (hexec : exec i s = readOperand o (fun m s => s.compare (reg s) m) s)
    (hf : WritesFile (fun s' => s'.compare (reg s') (operandValue o e s)) s s.a s.x s.y s.sp
      (compareStatus s.p v (operandValue o e s))) :
    ∃ t, exec i s = .next t ∧
      flagOf t.p .c = decide ((operandValue o e s).toNat ≤ v.toNat) ∧ flagOf t.p .z = decide (v = operandValue o e s) ∧
      flagOf t.p .n = (v - operandValue o e s).getLsbD 7 ∧ KeepsFlagsBut s.p t.p [.c, .z, .n] ∧
      t.registers = s.registers ∧ Quiet (afterOperand o e s) t ∧ t.pc = s.pc + BitVec.ofNat 16 o.bytes.length := by
  obtain ⟨t, hnext, hregs, hp, hframe⟩ := exec_reads he hexec hf
  obtain ⟨hc, hz, hn, hkeeps⟩ := compare_flags s.p v (operandValue o e s)
  rw [← hp] at hc hz hn hkeeps
  exact ⟨t, hnext, hc, hz, hn, hkeeps, hregs, hframe⟩

/-- Settles O21: the three comparisons are `Compare` of their register, and BIT writes its status. -/
theorem compareAndBitInstructions : Obligations.CompareAndBitInstructions := by
  intro s o e he
  refine ⟨fun i v h _ => ?_, fun _ => ?_⟩
  · simp only [List.mem_cons, List.not_mem_nil, or_false, Prod.mk.injEq] at h
    rcases h with ⟨rfl, rfl⟩ | ⟨rfl, rfl⟩ | ⟨rfl, rfl⟩
    · exact exec_compares (reg := State.a) he rfl fun _ => rfl
    · exact exec_compares (reg := State.x) he rfl fun _ => rfl
    · exact exec_compares (reg := State.y) he rfl fun _ => rfl
  · have hf : WritesFile (fun t => t.writeP (bitStatus t.p t.a (operandValue o e s))) s s.a s.x s.y s.sp
        (bitStatus s.p s.a (operandValue o e s)) := fun _ => rfl
    obtain ⟨t, hnext, hregs, hp, hframe⟩ :=
      exec_reads (i := .bit o) (f := fun m s => s.writeP (bitStatus s.p s.a m)) he rfl hf
    obtain ⟨hz, hn, hv, hkeeps⟩ := bit_flags s.p s.a (operandValue o e s)
    rw [← hp] at hz hn hv hkeeps
    exact ⟨t, hnext, hz, hn, hv, hkeeps, hregs, hframe⟩

/-- Settles O30: the one-byte NOPs write nothing, and the others make their operand's read. -/
theorem noOperations : Obligations.NoOperations := by
  intro s
  refine ⟨fun i hi _ => ?_, fun code o e he _ => exec_reads (f := fun _ s => s) he rfl fun _ => rfl⟩
  have hexec : exec i s = implied (fun s => s) s := by
    rcases hi with rfl | ⟨code, rfl⟩ <;> rfl
  obtain ⟨t, hnext, hregs, hp, hquiet, hpc, -⟩ := implied_writes (f := fun s => s) (s := s) rfl
  exact ⟨t, hexec.trans hnext, hregs, hp, hquiet, hpc⟩

end Sys2Proof.Machine
end

section
/-! The instructions that modify memory, shifts of the accumulator, and the fusion rule (42 R221, R222, 43, 46 R300 to R308). -/

namespace Sys2Proof.Machine

/-- No instruction that stores has an immediate form (R193 to R195, R221, R240, R300). -/
theorem not_imm_of_storesTo {i : Instr} {o : Operand} (hwf : i.wellFormed = true) (h : i.storesTo = some o) (v : Byte) : o ≠ .imm v := by
  rintro rfl
  cases i with
  | sta _ | stx _ | sty _ | sax _ | inc _ | dec _ | dcp _ | isb _ | slo _ | rla _ | sre _ | rra _ =>
    cases h
    cases hwf
  | asl o | lsr o | rol o | ror o =>
    obtain ⟨-, hsome⟩ := Option.ite_none_left_eq_some.mp h
    cases hsome
    cases hwf
  | _ => cases h

theorem ne_acc_of_effective {o : Operand} {e : Effective} {s : State} (he : effective o s = some e) : o ≠ .acc := by
  rintro rfl
  cases he

/-- Settles O22: each of the two stores the stepped value and writes Z and N of it. -/
theorem incrementMemory : Obligations.IncrementMemory := by
  intro s o e hinv he hb i r h hwf
  have hzn : ∀ v, WritesFile (fun t => t.setZN v) s s.a s.x s.y s.sp (zn s.p v) := fun _ _ => rfl
  simp only [List.mem_cons, List.not_mem_nil, or_false, Prod.mk.injEq] at h
  rcases h with ⟨rfl, rfl⟩ | ⟨rfl, rfl⟩
  · obtain ⟨t, hnext, hstored, hregs, hp, hframe⟩ := exec_modifies (i := .inc o) (r := fun m => m + 1) (f := fun _ r s => s.setZN r)
      hinv he hb (not_imm_of_storesTo hwf rfl) rfl (hzn _)
    exact ⟨t, hnext, hstored, hp ▸ zn_sets s.p _, hregs, hframe⟩
  · obtain ⟨t, hnext, hstored, hregs, hp, hframe⟩ := exec_modifies (i := .dec o) (r := fun m => m - 1) (f := fun _ r s => s.setZN r)
      hinv he hb (not_imm_of_storesTo hwf rfl) rfl (hzn _)
    exact ⟨t, hnext, hstored, hp ▸ zn_sets s.p _, hregs, hframe⟩

/-! ### Shifts (43) -/

/-- A shift of the accumulator writes A, C, Z and N (R240). -/
theorem exec_shifts_acc {i : Instr} {k : Shift} {s : State} {r : Nat} (hexec : exec i s = shiftOperand k .acc s)
    (hr : (k.result s.a (flagOf s.p .c)).toNat = r) :
    ∃ t, exec i s = .next t ∧ t.a.toNat = r ∧ t.registers = (t.a, s.x, s.y, s.sp) ∧ SetsCZN s.p t.p (k.carry s.a) t.a ∧ Quiet s t ∧
      t.pc = s.pc := by
  obtain ⟨t, hnext, hregs, hp, hquiet, hpc, -⟩ := implied_writes (f := fun s => s.shiftA k) (s := s)
    (a := k.result s.a (flagOf s.p .c)) (p := zn (withFlag s.p .c (k.carry s.a)) (k.result s.a (flagOf s.p .c))) rfl
  have ha : t.a = k.result s.a (flagOf s.p .c) := congrArg Prod.fst hregs
  exact ⟨t, hexec.trans hnext, ha ▸ hr, ha ▸ hregs, by rw [hp, ha]; exact sets_czn s.p _ _, hquiet, hpc⟩

/-- Settles O23: `shift_result_toNat` says the four results in integers. -/
theorem shiftAccumulator : Obligations.ShiftAccumulator := by
  intro s i r c h
  obtain ⟨hasl, hlsr, hrol, hror⟩ := shift_result_toNat s.a (flagOf s.p .c)
  simp only [List.mem_cons, List.not_mem_nil, or_false, Prod.mk.injEq] at h
  rcases h with ⟨rfl, rfl, rfl⟩ | ⟨rfl, rfl, rfl⟩ | ⟨rfl, rfl, rfl⟩ | ⟨rfl, rfl, rfl⟩
  · exact exec_shifts_acc (k := .asl) rfl hasl
  · exact exec_shifts_acc (k := .lsr) rfl hlsr
  · exact exec_shifts_acc (k := .rol) rfl hrol
  · exact exec_shifts_acc (k := .ror) rfl hror

/-- The results of the four shifts as bytes of integers (R241 to R244). -/
theorem shift_result_eq (v : Byte) (c : Bool) :
    Shift.asl.result v c = BitVec.ofNat 8 (2 * v.toNat % 256) ∧ Shift.lsr.result v c = BitVec.ofNat 8 (v.toNat / 2) ∧
    Shift.rol.result v c = BitVec.ofNat 8 (2 * v.toNat % 256 + c.toNat) ∧
    Shift.ror.result v c = BitVec.ofNat 8 (v.toNat / 2 + 128 * c.toNat) := by
  obtain ⟨hasl, hlsr, hrol, hror⟩ := shift_result_toNat v c
  have hbyte : ∀ {w : Byte} {n : Nat}, w.toNat = n → w = BitVec.ofNat 8 n := by
    rintro w _ rfl
    rw [BitVec.ofNat_toNat, BitVec.setWidth_eq]
  exact ⟨hbyte hasl, hbyte hlsr, hbyte hrol, hbyte hror⟩

theorem shiftOperand_of_ne_acc {k : Shift} {o : Operand} (h : o ≠ .acc) (s : State) :
    shiftOperand k o s = modifyOperand o (fun m => k.result m (s.flag .c)) (fun m r s => s.afterShift k m r) s := by
  unfold shiftOperand
  split
  · exact absurd rfl h
  · rfl

/-- A shift of memory below `$8000` (R240). -/
theorem exec_shifts_memory {i : Instr} {k : Shift} {o : Operand} {e : Effective} {s : State} {r : Nat} (hinv : s.Inv)
    (he : effective o s = some e) (hb : e.addr < 0x8000#16) (ho : ∀ v, o ≠ .imm v) (hexec : exec i s = shiftOperand k o s)
    (hr : k.result (peek s e.addr) (flagOf s.p .c) = BitVec.ofNat 8 r) :
    ∃ t, exec i s = .next t ∧ Stored (afterRead s e.addr) t e.addr (BitVec.ofNat 8 r) ∧
      SetsCZN s.p t.p (k.carry (peek s e.addr)) (BitVec.ofNat 8 r) ∧ t.registers = s.registers ∧ SameHost s t ∧ t.run = s.run ∧
      t.pc = s.pc + BitVec.ofNat 16 o.bytes.length := by
  have hf : WritesFile (fun t => t.afterShift k (peek s e.addr) (k.result (peek s e.addr) (s.flag .c))) s s.a s.x s.y s.sp
      (zn (withFlag s.p .c (k.carry (peek s e.addr))) (k.result (peek s e.addr) (flagOf s.p .c))) := fun _ => rfl
  obtain ⟨t, hnext, hstored, hregs, hp, hframe⟩ := exec_modifies (r := fun m => k.result m (s.flag .c))
    hinv he hb ho (hexec.trans (shiftOperand_of_ne_acc (ne_acc_of_effective he) s)) hf
  rw [← hr]
  exact ⟨t, hnext, hstored, hp ▸ sets_czn s.p _ _, hregs, hframe⟩

theorem storesTo_shift {i : Instr} {o : Operand} (h : i = .asl o ∨ i = .lsr o ∨ i = .rol o ∨ i = .ror o) (ho : o ≠ .acc) :
    i.storesTo = some o := by
  rcases h with rfl | rfl | rfl | rfl <;> exact if_neg ho

/-- Settles O24: as O23, with the store of `exec_modifies`. -/
theorem shiftMemory : Obligations.ShiftMemory := by
  intro s o e hinv he hb i r c h hwf
  obtain ⟨hasl, hlsr, hrol, hror⟩ := shift_result_eq (peek s e.addr) (flagOf s.p .c)
  have hacc := ne_acc_of_effective he
  simp only [List.mem_cons, List.not_mem_nil, or_false, Prod.mk.injEq] at h
  have ho := not_imm_of_storesTo hwf (storesTo_shift (h.imp And.left (Or.imp And.left (Or.imp And.left And.left))) hacc)
  rcases h with ⟨rfl, rfl, rfl⟩ | ⟨rfl, rfl, rfl⟩ | ⟨rfl, rfl, rfl⟩ | ⟨rfl, rfl, rfl⟩
  · exact exec_shifts_memory (k := .asl) hinv he hb ho rfl hasl
  · exact exec_shifts_memory (k := .lsr) hinv he hb ho rfl hlsr
  · exact exec_shifts_memory (k := .rol) hinv he hb ho rfl hrol
  · exact exec_shifts_memory (k := .ror) hinv he hb ho rfl hror

/-! ### The fused instructions (46) -/

/-- Settles O35: the stepped value is stored, and `Compare` or `AddWithCarry` of its complement writes the register file. -/
theorem stepAndCombine : Obligations.StepAndCombine := by
  intro s o e hinv he hb
  refine ⟨fun hwf => ?_, fun hwf => ?_⟩
  · have hf : WritesFile (fun t => t.compare t.a (peek s e.addr - 1)) s s.a s.x s.y s.sp (compareStatus s.p s.a (peek s e.addr - 1)) :=
      fun _ => rfl
    obtain ⟨t, hnext, hstored, hregs, hp, hframe⟩ := exec_modifies (i := .dcp o) (r := fun m => m - 1)
      (f := fun _ r s => s.compare s.a r) hinv he hb (not_imm_of_storesTo hwf rfl) rfl hf
    exact ⟨t, hnext, hstored, hregs, hp ▸ sets_czn s.p _ _, hframe⟩
  · have hf : WritesFile (fun t => t.addWithCarry (~~~(peek s e.addr + 1))) s
        (addResult s.a (~~~(peek s e.addr + 1)) (flagOf s.p .c)) s.x s.y s.sp (addStatus s.p s.a (~~~(peek s e.addr + 1))) :=
      fun _ => rfl
    obtain ⟨t, hnext, hstored, hregs, hp, hframe⟩ := exec_modifies (i := .isb o) (r := fun m => m + 1)
      (f := fun _ r s => s.addWithCarry (~~~r)) hinv he hb (not_imm_of_storesTo hwf rfl) rfl hf
    have ha : t.a = addResult s.a (~~~(peek s e.addr + 1)) (flagOf s.p .c) := congrArg Prod.fst hregs
    refine ⟨t, hnext, hstored, ha ▸ hregs, ?_, hframe⟩
    rw [ha, hp]
    exact subtracted s.p s.a (peek s e.addr + 1)

/-- A shift of memory whose result is combined with A by a bitwise operation (R305 to R307). -/
theorem exec_shifts_combines {i : Instr} {k : Shift} {o : Operand} {e : Effective} {s : State} {r : Nat} {op : Byte → Byte → Byte}
    {f : Bool → Bool → Bool} (hbits : ∀ v w : Byte, ∀ k < 8, (op v w).getLsbD k = f (v.getLsbD k) (w.getLsbD k)) (hinv : s.Inv)
    (he : effective o s = some e) (hb : e.addr < 0x8000#16) (ho : ∀ v, o ≠ .imm v)
    (hexec : exec i s = modifyOperand o (fun m => k.result m (s.flag .c))
      (fun m r s => (s.setFlag .c (k.carry m)).writeA (op s.a r)) s)
    (hr : k.result (peek s e.addr) (flagOf s.p .c) = BitVec.ofNat 8 r) :
    ∃ t, exec i s = .next t ∧ Stored (afterRead s e.addr) t e.addr (BitVec.ofNat 8 r) ∧
      (∀ k < 8, t.a.getLsbD k = f (s.a.getLsbD k) ((BitVec.ofNat 8 r).getLsbD k)) ∧ t.registers = (t.a, s.x, s.y, s.sp) ∧
      SetsCZN s.p t.p (k.carry (peek s e.addr)) t.a ∧ SameHost s t ∧ t.run = s.run ∧
      t.pc = s.pc + BitVec.ofNat 16 o.bytes.length := by
  have hf : WritesFile
      (fun t => (t.setFlag .c (k.carry (peek s e.addr))).writeA (op t.a (k.result (peek s e.addr) (s.flag .c)))) s
      (op s.a (k.result (peek s e.addr) (flagOf s.p .c))) s.x s.y s.sp
      (zn (withFlag s.p .c (k.carry (peek s e.addr))) (op s.a (k.result (peek s e.addr) (flagOf s.p .c)))) := fun _ => rfl
  obtain ⟨t, hnext, hstored, hregs, hp, hframe⟩ := exec_modifies (r := fun m => k.result m (s.flag .c)) hinv he hb ho hexec hf
  have ha : t.a = op s.a (k.result (peek s e.addr) (flagOf s.p .c)) := congrArg Prod.fst hregs
  rw [← hr]
  refine ⟨t, hnext, hstored, ha ▸ hbits s.a _, ha ▸ hregs, ?_, hframe⟩
  rw [ha, hp]
  exact sets_czn s.p _ _

/-- `AddWithCarry` after the carry alone was written (R308). -/
theorem added_after_carry (p a m : Byte) (c : Bool) :
    Added p (addStatus (withFlag p .c c) a m) a m (addResult a m c) c := by
  have hc : flagOf (withFlag p .c c) .c = c := by rw [flagOf_withFlag, if_pos rfl]
  have h := added (withFlag p .c c) a m
  rw [hc] at h
  obtain ⟨hr, hcarry, hv, hz, hn, hkeeps⟩ := h
  refine ⟨hr, hcarry, hv, hz, hn, fun f hf => (hkeeps f hf).trans ?_⟩
  rw [flagOf_withFlag, if_neg fun h => hf (by simp [h])]

/-- Settles O36: the first three are `exec_shifts_combines`; RRA adds what it stored with the carry of its rotate. -/
theorem shiftAndCombine : Obligations.ShiftAndCombine := by
  intro s o e hinv he hb
  obtain ⟨hasl, hlsr, hrol, -⟩ := shift_result_eq (peek s e.addr) (flagOf s.p .c)
  refine ⟨fun i r c f h hwf => ?_, fun hwf => ?_⟩
  · rcases h with ⟨rfl, rfl, rfl, rfl⟩ | ⟨rfl, rfl, rfl, rfl⟩ | ⟨rfl, rfl, rfl, rfl⟩
    · exact exec_shifts_combines (k := .asl) (op := fun v w => v ||| w) (fun v w k _ => BitVec.getLsbD_or) hinv he hb
        (not_imm_of_storesTo hwf rfl) rfl hasl
    · exact exec_shifts_combines (k := .rol) (op := fun v w => v &&& w) (fun v w k _ => BitVec.getLsbD_and) hinv he hb
        (not_imm_of_storesTo hwf rfl) rfl hrol
    · exact exec_shifts_combines (k := .lsr) (op := fun v w => v ^^^ w) (fun v w k _ => BitVec.getLsbD_xor) hinv he hb
        (not_imm_of_storesTo hwf rfl) rfl hlsr
  · obtain ⟨-, -, -, hror⟩ := shift_result_toNat (peek s e.addr) (flagOf s.p .c)
    have hcarry : flagOf (withFlag s.p .c (Shift.ror.carry (peek s e.addr))) .c = Shift.ror.carry (peek s e.addr) := by
      rw [flagOf_withFlag, if_pos rfl]
    have hf : WritesFile (fun t => (t.setFlag .c (Shift.ror.carry (peek s e.addr))).addWithCarry
          (Shift.ror.result (peek s e.addr) (s.flag .c))) s
        (addResult s.a (Shift.ror.result (peek s e.addr) (flagOf s.p .c)) (Shift.ror.carry (peek s e.addr))) s.x s.y s.sp
        (addStatus (withFlag s.p .c (Shift.ror.carry (peek s e.addr))) s.a (Shift.ror.result (peek s e.addr) (flagOf s.p .c))) := by
      intro t
      simp only [State.addWithCarry, State.setFlag, State.flag, hcarry]
    obtain ⟨t, hnext, hstored, hregs, hp, hframe⟩ := exec_modifies (i := .rra o) (r := fun m => Shift.ror.result m (s.flag .c))
      (f := fun m r s => (s.setFlag .c (Shift.ror.carry m)).addWithCarry r) hinv he hb (not_imm_of_storesTo hwf rfl) rfl hf
    have ha := congrArg Prod.fst hregs
    dsimp only at ha
    refine ⟨t, _, hnext, hror, hstored, ?_, ha ▸ hregs, hframe⟩
    rw [ha, hp]
    exact added_after_carry s.p s.a _ _

/-! ### The fusion rule -/

/-! A computation of the status that writes Z and N does not depend on an earlier `SetZN`. -/

theorem zn_zn (p v w : Byte) : zn (zn p v) w = zn p w := by
  refine status_ext fun f => ?_
  simp only [flagOf_zn]
  split
  · rfl
  · split <;> rfl

theorem compareStatus_zn (p r v m : Byte) : compareStatus (zn p r) v m = compareStatus p v m := by
  refine status_ext fun f => ?_
  simp only [flagOf_compareStatus, flagOf_zn]
  cases f <;> rfl

theorem addStatus_zn (p r a m : Byte) : addStatus (zn p r) a m = addStatus p a m := by
  refine status_ext fun f => ?_
  simp only [flagOf_addStatus, flagOf_zn]
  cases f <;> rfl

theorem readOperand_zp (s : State) (b : Byte) (f : Byte → State → State) :
    readOperand (.zp b) f s = .next (complete 2 3 (f (peek s (zext16 b)) s)) := by
  have hquiet : afterRead s (zext16 b) = s := by rw [afterRead, if_pos (zext16_le b)]
  rw [readOperand_eq rfl]
  simp only [operandValue, afterOperand, hquiet]
  rfl

theorem modifyOperand_zp (s : State) (b : Byte) (r : Byte → Byte) (f : Byte → Byte → State → State) :
    modifyOperand (.zp b) r f s = .next (complete 2 5
      (f (peek s (zext16 b)) (r (peek s (zext16 b))) (writeRam s (zext16 b) (r (peek s (zext16 b)))))) := by
  have hquiet : afterRead s (zext16 b) = s := by rw [afterRead, if_pos (zext16_le b)]
  simp only [modifyOperand, effective, operandValue, afterOperand, hquiet, busWrite, zext16_le, if_true, andThen]
  rfl

/-- The value that the first of two operations stored is what the second one reads; `f` writes the register file only. -/
theorem peek_stored_zp {s u : State} (hinv : s.Inv) (b v : Byte) (hram : u.ram = (writeRam s (zext16 b) v).ram) :
    peek u (zext16 b) = v := by
  obtain ⟨⟨hwf, -⟩, -⟩ := hinv
  rw [peek_ram (zext16_le b), hram, writeRam_ram, Memory.read_write hwf, if_pos rfl]

/-- A fused instruction, and its two operations one after the other: `fused` on the stored value does what `first` and then `second` do. -/
theorem fuses {s : State} {b : Byte} {i j k : Instr} {r : Byte → Byte} {fused first : Byte → Byte → State → State}
    {second : Byte → State → State} (hinv : s.Inv) (hi : exec i s = modifyOperand (.zp b) r fused s)
    (hj : exec j s = modifyOperand (.zp b) r first s) (hk : ∀ u, exec k u = readOperand (.zp b) second u)
    (hram : ∀ m v t, (first m v t).ram = t.ram)
    (h : let m := peek s (zext16 b)
         let t := writeRam s (zext16 b) (r m)
         let v := second (r m) (complete 2 5 (first m (r m) t))
         (fused m (r m) t).registers = v.registers ∧ (fused m (r m) t).p = v.p ∧ (fused m (r m) t).ram = v.ram) :
    ∃ t u v, exec i s = .next t ∧ exec j s = .next u ∧ exec k u = .next v ∧ t.registers = v.registers ∧ t.p = v.p ∧ t.ram = v.ram := by
  refine ⟨_, _, _, hi.trans (modifyOperand_zp s b r fused), hj.trans (modifyOperand_zp s b r first), (hk _).trans (readOperand_zp _ b second), ?_⟩
  rw [peek_complete, peek_stored_zp hinv b (r (peek s (zext16 b))) (hram _ _ _)]
  exact h

/-- Settles O37: what the second operation writes to the status does not depend on the Z and N of the first. -/
theorem fusionRule : Obligations.FusionRule := by
  intro s b fused first second hinv h
  simp only [List.mem_cons, List.not_mem_nil, or_false, Prod.mk.injEq] at h
  rcases h with ⟨rfl, rfl, rfl⟩ | ⟨rfl, rfl, rfl⟩ | ⟨rfl, rfl, rfl⟩ | ⟨rfl, rfl, rfl⟩ | ⟨rfl, rfl, rfl⟩ | ⟨rfl, rfl, rfl⟩ | ⟨rfl, rfl, rfl⟩
  · exact fuses (r := fun m => m - 1) (fused := fun _ r s => s.compare s.a r) (first := fun _ r s => s.setZN r)
      (second := fun m s => s.compare s.a m) hinv rfl rfl (fun _ => rfl) (fun _ _ _ => rfl) ⟨rfl, (compareStatus_zn _ _ _ _).symm, rfl⟩
  · refine fuses (r := fun m => m + 1) (fused := fun _ r s => s.addWithCarry (~~~r)) (first := fun _ r s => s.setZN r)
      (second := fun m s => s.addWithCarry (~~~m)) hinv rfl rfl (fun _ => rfl) (fun _ _ _ => rfl) ⟨?_, (addStatus_zn _ _ _ _).symm, rfl⟩
    simp [State.registers, State.flag, flagOf_zn]
  · exact fuses (r := fun m => Shift.asl.result m (s.flag .c)) (fused := fun m r s => (s.setFlag .c (Shift.asl.carry m)).writeA (s.a ||| r))
      (first := fun m r s => s.afterShift .asl m r) (second := fun m s => s.writeA (s.a ||| m))
      hinv rfl rfl (fun _ => rfl) (fun _ _ _ => rfl) ⟨rfl, (zn_zn _ _ _).symm, rfl⟩
  · exact fuses (r := fun m => Shift.rol.result m (s.flag .c)) (fused := fun m r s => (s.setFlag .c (Shift.rol.carry m)).writeA (s.a &&& r))
      (first := fun m r s => s.afterShift .rol m r) (second := fun m s => s.writeA (s.a &&& m))
      hinv rfl rfl (fun _ => rfl) (fun _ _ _ => rfl) ⟨rfl, (zn_zn _ _ _).symm, rfl⟩
  · exact fuses (r := fun m => Shift.lsr.result m (s.flag .c)) (fused := fun m r s => (s.setFlag .c (Shift.lsr.carry m)).writeA (s.a ^^^ r))
      (first := fun m r s => s.afterShift .lsr m r) (second := fun m s => s.writeA (s.a ^^^ m))
      hinv rfl rfl (fun _ => rfl) (fun _ _ _ => rfl) ⟨rfl, (zn_zn _ _ _).symm, rfl⟩
  · refine fuses (r := fun m => Shift.ror.result m (s.flag .c)) (fused := fun m r s => (s.setFlag .c (Shift.ror.carry m)).addWithCarry r)
      (first := fun m r s => s.afterShift .ror m r) (second := fun m s => s.addWithCarry m)
      hinv rfl rfl (fun _ => rfl) (fun _ _ _ => rfl) ⟨?_, (addStatus_zn _ _ _ _).symm, rfl⟩
    simp [State.registers, State.flag, flagOf_zn]
  · exact ⟨_, _, _, readOperand_zp s b fun m s => (s.writeA m).writeX m, readOperand_zp s b fun m s => s.writeA m, rfl, rfl, rfl, rfl⟩

end Sys2Proof.Machine
end

section
/-! Which instructions stop (60 R460 to R464, 93 U7), and what those that go on cost (30 R126, 40 R155). -/

namespace Sys2Proof.Machine

/-! ### Faults of the admitted instructions -/

/-- An instruction with a computed effective address to store to is a store or a read-modify-write instruction (R462). -/
theorem exec_of_storesTo {i : Instr} {o : Operand} (h : i.storesTo = some o) (s : State) :
    (∃ v, exec i s = storeOperand o v s) ∨ ∃ r f, exec i s = modifyOperand o r f s := by
  cases i with
  | sta _ | stx _ | sty _ | sax _ =>
    cases h
    simp only [exec]
    exact .inl ⟨_, rfl⟩
  | inc _ | dec _ | dcp _ | isb _ | slo _ | rla _ | sre _ | rra _ =>
    cases h
    simp only [exec]
    exact .inr ⟨_, _, rfl⟩
  | asl _ | lsr _ | rol _ | ror _ =>
    obtain ⟨hacc, hsome⟩ := Option.ite_none_left_eq_some.mp h
    cases hsome
    exact .inr ⟨_, _, shiftOperand_of_ne_acc hacc s⟩
  | _ => cases h

theorem exec_storesTo_rom {i : Instr} {o : Operand} {e : Effective} {s : State} (h : i.storesTo = some o) (he : effective o s = some e)
    (hrom : 0x8000#16 ≤ e.addr) : ∃ v, exec i s = .fault (.romWrite e.addr v) := by
  rcases exec_of_storesTo h s with ⟨v, hexec⟩ | ⟨r, f, hexec⟩
  · exact ⟨v, hexec.trans (storeOperand_rom he hrom v)⟩
  · exact ⟨_, hexec.trans (modifyOperand_rom he hrom r f)⟩

/-- The shifts are the only instructions of the accumulator form (R241 to R244), and they do not ask for its address. -/
theorem exec_acc {i : Instr} (hwf : i.wellFormed = true) (h : i.operand = some .acc) (s : State) : ∃ k, exec i s = shiftOperand k .acc s := by
  cases i with
  | asl _ | lsr _ | rol _ | ror _ =>
    cases h
    exact ⟨_, rfl⟩
  | lda _ | ldx _ | ldy _ | sta _ | stx _ | sty _ | adc _ | sbc _ | and _ | ora _ | eor _ | cmp _ | cpx _ | cpy _ | bit _
  | inc _ | dec _ | lax _ | sax _ | dcp _ | isb _ | slo _ | rla _ | sre _ | rra _ | nopOperand _ _ =>
    cases h
    cases hwf
  | _ => cases h

/-- A well-formed admitted instruction faults by a store to ROM only (R462, R464). -/
theorem exec_fault_rom {i : Instr} {s : State} {x : Fault} (hwf : i.wellFormed = true) (hadm : i.trapped = false)
    (h : exec i s = .fault x) : ∃ o, i.storesTo = some o ∧ RomFault o s x := by
  refine (exec_fault_cases hadm h).resolve_left ?_
  rintro ⟨o, ho, hnone, -⟩
  by_cases hacc : o = .acc
  · subst hacc
    obtain ⟨k, hexec⟩ := exec_acc hwf ho s
    cases hexec.symm.trans h
  · obtain ⟨e, he⟩ := effective_of_ne_acc hacc s
    cases hnone.symm.trans he

/-- A read-modify-write instruction reports the value it would have stored (R460). -/
theorem modifyOperand_rom_value {i : Instr} {o : Operand} {e : Effective} {s : State} {r : Byte → Byte} {f : Byte → Byte → State → State}
    {n : Nat} (hwf : i.wellFormed = true) (hstores : i.storesTo = some o) (he : effective o s = some e) (hrom : 0x8000#16 ≤ e.addr)
    (hexec : exec i s = modifyOperand o r f s) (hr : r (peek s e.addr) = BitVec.ofNat 8 n) :
    exec i s = .fault (.romWrite e.addr (BitVec.ofNat 8 n)) := by
  rw [hexec, modifyOperand_rom he hrom, operandValue_of_not_imm (not_imm_of_storesTo hwf hstores), hr]

theorem add_one_eq (v : Byte) : v + 1 = BitVec.ofNat 8 (v.toNat + 1) := by
  simp [BitVec.ofNat_add]

theorem sub_one_eq (v : Byte) : v - 1 = BitVec.ofNat 8 (v.toNat + 255) := by
  simp [BitVec.ofNat_add, BitVec.sub_eq_add_neg]

/-- The values of the shifts before the reduction to a byte. -/
theorem shift_result_ofNat (v : Byte) (c : Bool) :
    Shift.asl.result v c = BitVec.ofNat 8 (2 * v.toNat) ∧ Shift.lsr.result v c = BitVec.ofNat 8 (v.toNat / 2) ∧
    Shift.rol.result v c = BitVec.ofNat 8 (2 * v.toNat + c.toNat) ∧
    Shift.ror.result v c = BitVec.ofNat 8 (v.toNat / 2 + 128 * c.toNat) := by
  obtain ⟨hasl, hlsr, hrol, hror⟩ := shift_result_eq v c
  refine ⟨hasl.trans ?_, hlsr, hrol.trans ?_, hror⟩ <;> apply BitVec.eq_of_toNat_eq <;> simp

/-- Settles O10: a store to ROM faults, nothing else of a well-formed term does, and the value is the one that was to be stored. -/
theorem faultsOfAdmittedInstructions : Obligations.FaultsOfAdmittedInstructions := by
  intro i s hwf hadm
  refine ⟨fun o e hstores he hrom => exec_storesTo_rom hstores he hrom, fun x hx => ?_, fun o e n he hrom h => ?_⟩
  · obtain ⟨o, hstores, e, v, he, hrom, rfl⟩ := exec_fault_rom hwf hadm hx
    exact ⟨o, e, v, hstores, he, hrom, rfl⟩
  · obtain ⟨hasl, hlsr, hrol, hror⟩ := shift_result_ofNat (peek s e.addr) (flagOf s.p .c)
    have hacc := ne_acc_of_effective he
    simp only [List.mem_cons, List.not_mem_nil, or_false, Prod.mk.injEq] at h
    rcases h with inc | dec | dcp | isb | asl | lsr | rol | ror | slo | sre | rla | rra
    · obtain ⟨rfl, rfl⟩ := inc
      exact modifyOperand_rom_value (r := fun m => m + 1) (f := fun _ r s => s.setZN r)
        hwf rfl he hrom rfl (add_one_eq _)
    · obtain ⟨rfl, rfl⟩ := dec
      exact modifyOperand_rom_value (r := fun m => m - 1) (f := fun _ r s => s.setZN r)
        hwf rfl he hrom rfl (sub_one_eq _)
    · obtain ⟨rfl, rfl⟩ := dcp
      exact modifyOperand_rom_value (r := fun m => m - 1) (f := fun _ r s => s.compare s.a r)
        hwf rfl he hrom rfl (sub_one_eq _)
    · obtain ⟨rfl, rfl⟩ := isb
      exact modifyOperand_rom_value (r := fun m => m + 1) (f := fun _ r s => s.addWithCarry (~~~r))
        hwf rfl he hrom rfl (add_one_eq _)
    · obtain ⟨rfl, rfl⟩ := asl
      exact modifyOperand_rom_value hwf (if_neg hacc) he hrom (shiftOperand_of_ne_acc hacc s) hasl
    · obtain ⟨rfl, rfl⟩ := lsr
      exact modifyOperand_rom_value hwf (if_neg hacc) he hrom (shiftOperand_of_ne_acc hacc s) hlsr
    · obtain ⟨rfl, rfl⟩ := rol
      exact modifyOperand_rom_value hwf (if_neg hacc) he hrom (shiftOperand_of_ne_acc hacc s) hrol
    · obtain ⟨rfl, rfl⟩ := ror
      exact modifyOperand_rom_value hwf (if_neg hacc) he hrom (shiftOperand_of_ne_acc hacc s) hror
    · obtain ⟨rfl, rfl⟩ := slo
      exact modifyOperand_rom_value (r := fun m => Shift.asl.result m (s.flag .c)) (f := fun m r s => (s.setFlag .c (Shift.asl.carry m)).writeA (s.a ||| r))
        hwf rfl he hrom rfl hasl
    · obtain ⟨rfl, rfl⟩ := sre
      exact modifyOperand_rom_value (r := fun m => Shift.lsr.result m (s.flag .c)) (f := fun m r s => (s.setFlag .c (Shift.lsr.carry m)).writeA (s.a ^^^ r))
        hwf rfl he hrom rfl hlsr
    · obtain ⟨rfl, rfl⟩ := rla
      exact modifyOperand_rom_value (r := fun m => Shift.rol.result m (s.flag .c)) (f := fun m r s => (s.setFlag .c (Shift.rol.carry m)).writeA (s.a &&& r))
        hwf rfl he hrom rfl hrol
    · obtain ⟨rfl, rfl⟩ := rra
      exact modifyOperand_rom_value (r := fun m => Shift.ror.result m (s.flag .c)) (f := fun m r s => (s.setFlag .c (Shift.ror.carry m)).addWithCarry r)
        hwf rfl he hrom rfl hror

/-! ### Refusals -/

theorem busWrite_ne_refused (s : State) (a : Addr) (v : Byte) (x : Refusal) : busWrite s a v ≠ .refused x := by
  by_cases hrom : 0x8000#16 ≤ a
  · rw [busWrite_rom hrom]
    nofun
  · obtain ⟨t, hnext, -⟩ := busWrite_below (s := s) (BitVec.not_le.mp hrom) v
    rw [hnext]
    nofun

theorem andThen_next_ne_refused {r : Result} {x : Refusal} (h : r ≠ .refused x) (f : State → State) :
    andThen r (fun s => .next (f s)) ≠ .refused x := by
  cases r with
  | next s => nofun
  | fault e => nofun
  | refused e => exact fun he => h (by cases he; rfl)

theorem readOperand_ne_refused (o : Operand) (f : Byte → State → State) (s : State) (x : Refusal) : readOperand o f s ≠ .refused x := by
  unfold readOperand
  split <;> nofun

theorem storeOperand_ne_refused (o : Operand) (v : Byte) (s : State) (x : Refusal) : storeOperand o v s ≠ .refused x := by
  unfold storeOperand
  split
  · nofun
  · exact andThen_next_ne_refused (busWrite_ne_refused _ _ _ x) _

theorem modifyOperand_ne_refused (o : Operand) (r : Byte → Byte) (f : Byte → Byte → State → State) (s : State) (x : Refusal) :
    modifyOperand o r f s ≠ .refused x := by
  unfold modifyOperand
  split
  · nofun
  · exact andThen_next_ne_refused (busWrite_ne_refused _ _ _ x) _

theorem shiftOperand_ne_refused (k : Shift) (o : Operand) (s : State) (x : Refusal) : shiftOperand k o s ≠ .refused x := by
  by_cases hacc : o = .acc
  · subst hacc
    nofun
  · rw [shiftOperand_of_ne_acc hacc]
    exact modifyOperand_ne_refused _ _ _ _ x

theorem branch_ne_refused (taken : Bool) (disp : Byte) (s : State) (x : Refusal) : branch taken disp s ≠ .refused x := by
  cases taken <;> nofun

theorem execBrk_ne_refused (s : State) (x : Refusal) : execBrk s ≠ .refused x := by
  unfold execBrk
  split <;> nofun

theorem execJmpInd_ne_refused {pointer : Addr} (h : (Instr.jmpInd pointer).pointerReadable = true) (s : State) (x : Refusal) :
    execJmpInd pointer s ≠ .refused x := by
  obtain ⟨hlow, hhigh⟩ : sideEffectRead pointer = false ∧ sideEffectRead (pointerHigh pointer) = false := by
    simpa [Instr.pointerReadable] using h
  simp only [execJmpInd, hlow, hhigh, Bool.false_eq_true, if_false]
  nofun

/-- The pointer of JMP indirect is the one reason to refuse an instruction whose bytes were fetched (U7). -/
theorem exec_ne_refused {i : Instr} (h : i.pointerReadable = true) (s : State) (x : Refusal) : exec i s ≠ .refused x := by
  cases i with
  | lda o | ldx o | ldy o | adc o | sbc o | and o | ora o | eor o | cmp o | cpx o | cpy o | bit o | lax o | nopOperand _ o =>
    simp only [exec]
    exact readOperand_ne_refused o _ s x
  | sbcEB v =>
    simp only [exec]
    exact readOperand_ne_refused (.imm v) _ s x
  | sta o | stx o | sty o | sax o =>
    simp only [exec]
    exact storeOperand_ne_refused o _ s x
  | inc o | dec o | dcp o | isb o | slo o | rla o | sre o | rra o =>
    simp only [exec]
    exact modifyOperand_ne_refused o _ _ s x
  | asl o | lsr o | rol o | ror o =>
    simp only [exec]
    exact shiftOperand_ne_refused _ o s x
  | bcc d | bcs d | beq d | bne d | bmi d | bpl d | bvc d | bvs d =>
    simp only [exec]
    exact branch_ne_refused _ d s x
  | jmpInd pointer => exact execJmpInd_ne_refused h s x
  | brk => exact execBrk_ne_refused s x
  | _ => nofun

/-- Settles O11: a fault would be a store to ROM, and a refusal that of the pointer; both are excluded. -/
theorem admittedInstructionsComplete : Obligations.AdmittedInstructionsComplete := by
  intro i s hwf hadm hpointer hbelow
  cases hexec : exec i s with
  | next t => exact ⟨t, rfl⟩
  | fault x =>
    obtain ⟨o, hstores, e, -, he, hrom, -⟩ := exec_fault_rom hwf hadm hexec
    exact absurd hrom (BitVec.not_le.mpr (hbelow o e hstores he))
  | refused x => exact absurd hexec (exec_ne_refused hpointer s x)

end Sys2Proof.Machine
end

section
/-! The cost of an instruction (30 R126, 40 R155, R172 to R174, 44 R250): what its meaning adds to the pending counter, and that the
columns of its table row say the same. -/

namespace Sys2Proof.Machine

/-! ### The two columns of the table, by instruction -/

/-- The forms whose address can cross a page (R172). -/
def indexes : Operand → Bool
  | .abx _ | .aby _ | .izy _ => true
  | .acc | .imm _ | .zp _ | .zpx _ | .zpy _ | .abs _ | .izx _ => false

/-- The base cycles that the meaning of an instruction counts; a trapped one has none (R312). -/
def baseCost : Instr → Nat
  | .lda o | .ldx o | .ldy o | .adc o | .sbc o | .and o | .ora o | .eor o | .cmp o | .cpx o | .cpy o | .bit o | .lax o
  | .nopOperand _ o => o.readCycles
  | .sta o | .stx o | .sty o | .sax o => o.storeCycles
  | .inc o | .dec o | .asl o | .lsr o | .rol o | .ror o | .dcp o | .isb o | .slo o | .rla o | .sre o | .rra o => o.rmwCycles
  | .sbcEB _ | .nopImplied _ | .tax | .tay | .txa | .tya | .tsx | .txs | .inx | .iny | .dex | .dey | .clc | .sec | .cli | .sei | .clv
  | .cld | .sed | .nop => 2
  | .bcc _ | .bcs _ | .beq _ | .bne _ | .bmi _ | .bpl _ | .bvc _ | .bvs _ => 2
  | .jmp _ | .pha | .php => 3
  | .pla | .plp => 4
  | .jmpInd _ => 5
  | .jsr _ | .rts | .rti => 6
  | .brk => 7
  | .jam _ | .anc _ | .alr | .arr | .ane | .sha _ | .tas | .shy | .shx | .lxa | .las | .sbx => 0

/-- Does the instruction pay for a crossed page (R173, R174)? -/
def paysBonus : Instr → Bool
  | .lda o | .ldx o | .ldy o | .adc o | .sbc o | .and o | .ora o | .eor o | .cmp o | .cpx o | .cpy o | .bit o | .lax o
  | .nopOperand _ o => indexes o
  | _ => false

/-- The rows of the unofficial NOPs with an operand (R311). -/
theorem nopOperand_row {code : Byte} {o : Operand} (h : code ∈ nopOperandCodes o.format) :
    (opcodeRow code).baseCycles = o.readCycles ∧ (opcodeRow code).pageCrossBonus = indexes o := by
  cases o with
  | imm v =>
    have hall : ∀ c ∈ nopOperandCodes .imm, (opcodeRow c).baseCycles = 2 ∧ (opcodeRow c).pageCrossBonus = false := by decide
    exact hall code h
  | zp v =>
    have hall : ∀ c ∈ nopOperandCodes .zp, (opcodeRow c).baseCycles = 3 ∧ (opcodeRow c).pageCrossBonus = false := by decide
    exact hall code h
  | zpx v =>
    have hall : ∀ c ∈ nopOperandCodes .zpx, (opcodeRow c).baseCycles = 4 ∧ (opcodeRow c).pageCrossBonus = false := by decide
    exact hall code h
  | abs a =>
    have hall : ∀ c ∈ nopOperandCodes .abs, (opcodeRow c).baseCycles = 4 ∧ (opcodeRow c).pageCrossBonus = false := by decide
    exact hall code h
  | abx a =>
    have hall : ∀ c ∈ nopOperandCodes .abx, (opcodeRow c).baseCycles = 4 ∧ (opcodeRow c).pageCrossBonus = true := by decide
    exact hall code h
  | acc | zpy _ | aby _ | izx _ | izy _ => exact absurd h List.not_mem_nil

/-- The rows of an instruction that carries its opcode byte and has no operand. -/
theorem carried_row {codes : List Byte} {cycles : Nat}
    (hall : ∀ c ∈ codes, (opcodeRow c).baseCycles = cycles ∧ (opcodeRow c).pageCrossBonus = false) {c code : Byte}
    (h : (if codes.contains c then some c else none) = some code) :
    (opcodeRow code).baseCycles = cycles ∧ (opcodeRow code).pageCrossBonus = false :=
  hall code (carried_code h).2

/-- The row of a well-formed instruction has these two columns (R126): at each form it has, or at its one. -/
theorem row_columns {i : Instr} {code : Byte} (hwf : i.wellFormed = true) (h : i.opcode = some code) :
    (opcodeRow code).baseCycles = baseCost i ∧ (opcodeRow code).pageCrossBonus = paysBonus i := by
  cases i with
  | lda o | ldx o | ldy o | sta o | stx o | sty o | adc o | sbc o | and o | ora o | eor o | cmp o | cpx o | cpy o | bit o
  | inc o | dec o | asl o | lsr o | rol o | ror o | lax o | sax o | dcp o | isb o | slo o | rla o | sre o | rra o =>
    cases o <;> first
      | exact (Bool.false_ne_true hwf).elim
      | (cases h; exact ⟨rfl, rfl⟩)
  | nopOperand c o => exact nopOperand_row (carried_code h).2
  | nopImplied c => exact carried_row (cycles := 2) (by decide) h
  | jam c => exact carried_row (cycles := 0) (by decide) h
  | anc c => exact carried_row (cycles := 0) (by decide) h
  | sha c => exact carried_row (cycles := 0) (by decide) h
  | bcc _ | bcs _ | beq _ | bne _ | bmi _ | bpl _ | bvc _ | bvs _ | jmp _ | jmpInd _ | jsr _ | sbcEB _
  | tax | tay | txa | tya | tsx | txs | inx | iny | dex | dey | rts | pha | php | pla | plp | clc | sec | cli | sei | clv | cld
  | sed | nop | brk | rti | alr | arr | ane | tas | shy | shx | lxa | las | sbx =>
    cases h
    exact ⟨rfl, rfl⟩

/-! ### What the meanings add to the pending counter -/

theorem crossed_of_not_indexes {o : Operand} {e : Effective} {s : State} (he : effective o s = some e) (h : indexes o = false) :
    e.crossed = false := by
  cases o with
  | acc => cases he
  | abx _ | aby _ | izy _ => cases h
  | imm _ | zp _ | zpx _ | zpy _ | abs _ | izx _ =>
    cases he
    rfl

theorem readOperand_cycles {o : Operand} {f : Byte → State → State} {s t : State} (h : readOperand o f s = .next t)
    (hf : ∀ m u, (f m u).cycles = u.cycles) : ∃ e, effective o s = some e ∧ t.cycles = s.cycles + (o.readCycles + bonus e) := by
  cases he : effective o s with
  | none =>
    simp only [readOperand, he] at h
    cases h
  | some e =>
    rw [readOperand_eq he] at h
    cases h
    obtain ⟨-, -, -, hcycles⟩ := afterOperand_cpu o e s
    exact ⟨e, rfl, by rw [complete_cycles, hf, hcycles]⟩

theorem storeOperand_cycles {o : Operand} {v : Byte} {s t : State} (h : storeOperand o v s = .next t) :
    t.cycles = s.cycles + o.storeCycles := by
  cases he : effective o s with
  | none =>
    simp only [storeOperand, he] at h
    cases h
  | some e =>
    by_cases hrom : 0x8000#16 ≤ e.addr
    · cases (storeOperand_rom he hrom v).symm.trans h
    · obtain ⟨t', hnext, -, -, -, hcycles, -⟩ := storeOperand_below he (BitVec.not_le.mp hrom) v
      cases hnext.symm.trans h
      exact hcycles

theorem modifyOperand_cycles {o : Operand} {r : Byte → Byte} {f : Byte → Byte → State → State} {s t : State}
    (h : modifyOperand o r f s = .next t) (hf : ∀ m v u, (f m v u).cycles = u.cycles) : t.cycles = s.cycles + o.rmwCycles := by
  cases he : effective o s with
  | none =>
    simp only [modifyOperand, he] at h
    cases h
  | some e =>
    by_cases hrom : 0x8000#16 ≤ e.addr
    · cases (modifyOperand_rom he hrom r f).symm.trans h
    · obtain ⟨s1, hnext, -, -, -, hcycles, -⟩ := modifyOperand_below he (BitVec.not_le.mp hrom) r f
      cases hnext.symm.trans h
      rw [complete_cycles, hf, hcycles]

theorem shiftOperand_cycles {k : Shift} {o : Operand} {s t : State} (h : shiftOperand k o s = .next t) :
    t.cycles = s.cycles + o.rmwCycles := by
  by_cases hacc : o = .acc
  · subst hacc
    cases h
    rfl
  · rw [shiftOperand_of_ne_acc hacc] at h
    exact modifyOperand_cycles h fun _ _ _ => rfl

/-- The eight branches are one meaning, taken or not (R250 to R258). -/
theorem exec_branch {i : Instr} {d : Byte} (h : i.displacement = some d) (s : State) :
    exec i s = branch (!branchNotTaken i s) d s := by
  unfold Instr.displacement at h
  split at h
  case h_9 => cases h
  all_goals
    cases h
    simp only [exec, branchNotTaken, Bool.not_not]
    rfl

/-- A branch costs 2, and 1 or 2 more when it is taken (R250). -/
theorem branch_cycles {i : Instr} {d : Byte} {s t : State} (hd : i.displacement = some d) (h : exec i s = .next t) :
    t.cycles = s.cycles + (2 + branchBonus i s) := by
  rw [exec_branch hd] at h
  simp only [branchBonus, hd]
  cases hnot : branchNotTaken i s with
  | true =>
    rw [hnot] at h
    cases h
    rfl
  | false =>
    rw [hnot] at h
    cases h
    rw [jumpTo_cycles, branchCost, branchTarget]
    split <;> rfl

/-- The bonuses of R155 as `tableCost` adds them. -/
def bonuses (i : Instr) (s : State) : Nat := (if paysBonus i && crosses i s then 1 else 0) + branchBonus i s

theorem bonuses_of_not_pays {i : Instr} (h : paysBonus i = false) (s : State) : bonuses i s = branchBonus i s := by
  rw [bonuses, h, Bool.false_and, if_neg Bool.false_ne_true, Nat.zero_add]

theorem tableCost_eq {i : Instr} {code : Byte} (hwf : i.wellFormed = true) (h : i.opcode = some code) (s : State) :
    tableCost (opcodeRow code) i s = baseCost i + bonuses i s := by
  obtain ⟨hbase, hbonus⟩ := row_columns hwf h
  rw [tableCost, hbase, hbonus, Nat.add_assoc]
  rfl

/-- An instruction that reads pays for the page it crosses, which only the indexed forms do. -/
theorem bonuses_reads {i : Instr} {o : Operand} {e : Effective} {s : State} (hoperand : i.operand = some o)
    (hpays : paysBonus i = indexes o) (hbranch : branchBonus i s = 0) (he : effective o s = some e) : bonuses i s = bonus e := by
  have hcrosses : crosses i s = e.crossed := by simp only [crosses, hoperand, Option.bind_some, he]
  rw [bonuses, hcrosses, hpays, hbranch, Nat.add_zero, bonus]
  cases hindexes : indexes o with
  | true => rw [Bool.true_and]
  | false => rw [crossed_of_not_indexes he hindexes]; rfl

/-- What the instructions that go on add to the pending counter, a halting BRK apart (R155). -/
theorem exec_cycles {i : Instr} {s t : State} (hmode : i ≠ .brk ∨ s.params.brkMode = .interrupt) (h : exec i s = .next t) :
    t.cycles = s.cycles + (baseCost i + bonuses i s) := by
  cases i with
  | lda o | ldx o | ldy o | adc o | sbc o | and o | ora o | eor o | cmp o | cpx o | cpy o | bit o | lax o | nopOperand _ o =>
    simp only [exec] at h
    obtain ⟨e, he, hcycles⟩ := readOperand_cycles h fun _ _ => rfl
    rw [hcycles, bonuses_reads rfl rfl rfl he]
    rfl
  | sbcEB v =>
    simp only [exec] at h
    obtain ⟨e, he, hcycles⟩ := readOperand_cycles h fun _ _ => rfl
    cases he
    exact hcycles
  | sta o | stx o | sty o | sax o =>
    simp only [exec] at h
    exact storeOperand_cycles h
  | inc o | dec o | dcp o | isb o | slo o | rla o | sre o | rra o =>
    simp only [exec] at h
    exact modifyOperand_cycles h fun _ _ _ => rfl
  | asl o | lsr o | rol o | ror o =>
    simp only [exec] at h
    exact shiftOperand_cycles h
  | bcc d | bcs d | beq d | bne d | bmi d | bpl d | bvc d | bvs d =>
    rw [branch_cycles rfl h, bonuses_of_not_pays rfl]
    rfl
  | jmpInd pointer =>
    simp only [exec, execJmpInd] at h
    split at h
    · cases h
    · split at h
      · cases h
      · cases h
        rfl
  | brk =>
    have hinterrupt : s.params.brkMode = .interrupt := hmode.resolve_left fun hne => hne rfl
    simp only [exec, execBrk, hinterrupt] at h
    cases h
    rfl
  | tax | tay | txa | tya | tsx | txs | inx | iny | dex | dey | jmp _ | jsr _ | rts | pha | php | pla | plp | clc | sec | cli
  | sei | clv | cld | sed | nop | rti | nopImplied _ =>
    cases h
    rfl
  | _ => cases h

/-- Settles O12: the meanings count what the two columns say; a BRK that halts adds nothing. -/
theorem costFollowsTheTable : Obligations.CostFollowsTheTable := by
  intro i s t code hwf hcode h
  refine ⟨fun hmode => ?_, fun hbrk hhalt => ?_⟩
  · rw [tableCost_eq hwf hcode]
    exact exec_cycles hmode h
  · subst hbrk
    simp only [exec, execBrk, hhalt] at h
    cases h
    rfl

end Sys2Proof.Machine
end

section
/-! Branches, jumps, calls, returns and interrupts (40 R156, R176 to R179, 44, 45 R282, R283, 60 R474): where each goes, what it pushes and
pulls, and that a return undoes its entry. -/

namespace Sys2Proof.Machine

/-! ### Where an instruction lands -/

/-- An instruction whose length is its operand bytes and 1 lands at its target, or past those bytes (R156, log 16). -/
theorem landing_eq (n : Nat) (target : Addr) (s : State) : landing (n + 1) target s = landsAt s n target := by
  unfold landing landsAt
  split
  · next h => rw [h.2, Nat.add_sub_cancel]
  · rfl

theorem landing_congr {s t : State} (hparams : t.params = s.params) (hpc : t.pc = s.pc) (length : Nat) (target : Addr) :
    landing length target t = landing length target s := by
  rw [landing, landing, hparams, hpc]

/-- An instruction that only sets `pc` changes nothing else but time. -/
theorem jumpTo_frame (length cost : Nat) (target : Addr) (s : State) :
    (jumpTo length cost target s).registers = s.registers ∧ (jumpTo length cost target s).p = s.p ∧
    Quiet s (jumpTo length cost target s) :=
  ⟨rfl, rfl, quiet_of ⟨rfl, rfl, rfl, rfl, rfl, rfl⟩ rfl rfl rfl rfl⟩

/-! ### Branches (R250) -/

/-- The signed displacement of a byte, at 16 bits (R11). -/
theorem sext16_toInt (d : Byte) : (sext16 d).toInt = d.toInt := by
  rw [sext16, BitVec.toInt_signExtend_of_le (by decide)]

/-- A branch's target: the address after it plus the signed displacement, modulo 65536 (R250). -/
theorem branchTarget_toNat (d : Byte) (s : State) :
    ((branchTarget d s).toNat : Int) = ((s.pc.toNat : Int) + 1 + d.toInt) % 65536 := by
  have hd := sext16_toInt d
  rw [BitVec.toInt_eq_toNat_bmod] at hd
  have hmod : ((sext16 d).toNat : Int) % 65536 = d.toInt % 65536 := by
    rw [← hd]
    exact (Int.bmod_emod (m := 65536)).symm
  rw [branchTarget, BitVec.toNat_add, BitVec.toNat_add]
  have h1 : (1 : Addr).toNat = 1 := rfl
  omega

/-- What a branch does, taken or not (R250, R156). -/
theorem exec_branch_spec {i : Instr} {d : Byte} {taken : Bool} {s : State} (hexec : exec i s = branch taken d s) :
    ∃ t, exec i s = .next t ∧ t.registers = s.registers ∧ t.p = s.p ∧ Quiet s t ∧
      (taken = false → t.pc = s.pc + 1 ∧ t.cycles = s.cycles + 2) ∧
      (taken = true → ∃ target : Addr, (target.toNat : Int) = ((s.pc.toNat : Int) + 1 + d.toInt) % 65536 ∧
        t.pc = (if s.params.pcAdvanceByValueCompare = true ∧ target = s.pc then s.pc + 1 else target) ∧
        t.cycles = s.cycles + (if target.toNat / 256 = (s.pc + 1).toNat / 256 then 3 else 4)) := by
  rw [hexec]
  cases taken with
  | false => exact ⟨_, rfl, rfl, rfl, quiet_of ⟨rfl, rfl, rfl, rfl, rfl, rfl⟩ rfl rfl rfl rfl, fun _ => ⟨rfl, rfl⟩, nofun⟩
  | true =>
    obtain ⟨hregs, hp, hquiet⟩ := jumpTo_frame 2 (branchCost d s) (branchTarget d s) s
    refine ⟨_, rfl, hregs, hp, hquiet, nofun, fun _ => ⟨branchTarget d s, branchTarget_toNat d s, landing_eq 1 _ s, ?_⟩⟩
    rw [jumpTo_cycles, branchCost, pageCrossed_eq]
    by_cases hpage : (branchTarget d s).toNat / 256 = (s.pc + 1).toNat / 256
    · rw [if_pos hpage, if_neg (by simpa using hpage.symm)]
    · rw [if_neg hpage, if_pos (by simpa using fun h => hpage h.symm)]

/-- Settles O25: each of the eight is `branch` on its flag. -/
theorem branches : Obligations.Branches := by
  intro s d i taken h
  simp only [List.mem_cons, List.not_mem_nil, or_false, Prod.mk.injEq] at h
  rcases h with ⟨rfl, rfl⟩ | ⟨rfl, rfl⟩ | ⟨rfl, rfl⟩ | ⟨rfl, rfl⟩ | ⟨rfl, rfl⟩ | ⟨rfl, rfl⟩ | ⟨rfl, rfl⟩ | ⟨rfl, rfl⟩ <;>
    exact exec_branch_spec rfl

/-! ### Jumps (R259, R260) -/

/-- The high byte of an indirect target is at the next address of the pointer's own page (R260). -/
theorem pointerHigh_toNat (w : Addr) : (pointerHigh w).toNat = 256 * (w.toNat / 256) + (w.toNat + 1) % 256 := by
  have hlo : (loByte w).toNat = w.toNat % 256 := by rw [loByte, BitVec.extractLsb'_toNat, Nat.shiftRight_zero]
  have hhi : (hiByte w).toNat = w.toNat / 256 := by
    have hlt := w.isLt
    rw [hiByte, BitVec.extractLsb'_toNat, Nat.shiftRight_eq_div_pow]
    omega
  rw [pointerHigh, wordOf_toNat, hhi, BitVec.toNat_add, hlo]
  have h1 : (1 : Byte).toNat = 1 := rfl
  omega

/-- Settles O26: both jumps are `jumpTo`, of the operand or of the word at the pointer; the pointer's two bytes are looked at in order. -/
theorem jumps : Obligations.Jumps := by
  intro s w
  refine ⟨?_, fun high hhigh => ?_⟩
  · obtain ⟨hregs, hp, hquiet⟩ := jumpTo_frame 3 3 w s
    exact ⟨_, rfl, landing_eq 2 w s, hregs, hp, hquiet⟩
  · obtain rfl : high = pointerHigh w := BitVec.eq_of_toNat_eq (hhigh.trans (pointerHigh_toNat w).symm)
    refine ⟨fun hlow hhigh => ?_, fun hlow => ?_, fun hlow hhigh => ?_⟩
    · obtain ⟨hregs, hp, hquiet⟩ := jumpTo_frame 3 5 (wordOf (peek s (pointerHigh w)) (peek s w)) s
      refine ⟨_, ?_, landing_eq 2 _ s, hregs, hp, hquiet⟩
      simp only [exec, execJmpInd, hlow, hhigh, Bool.false_eq_true, if_false]
    · simp only [exec, execJmpInd, hlow, if_true]
    · simp only [exec, execJmpInd, hlow, hhigh, Bool.false_eq_true, if_false, if_true]

/-! ### Subroutines (R261, R262) -/

@[simp] theorem peek_jumpTo (length cost : Nat) (target : Addr) (s : State) (a : Addr) :
    peek (jumpTo length cost target s) a = peek s a :=
  peek_congr rfl rfl rfl rfl rfl rfl a

/-- A byte read again after the pushes is the operand's own where they did not change its cell (R261, log 10). -/
theorem rereadByte_of_eq {s s1 : State} {a : Addr} (h : peek s1 a = peek s a) (own : Byte) : rereadByte s s1 a own = own :=
  if_pos h

theorem rereadByte_of_own {s s1 : State} {a : Addr} {own : Byte} (h : peek s a = own) : rereadByte s s1 a own = peek s1 a := by
  unfold rereadByte
  split
  · next heq => rw [heq, h]
  · rfl

/-- The state in which JSR has pushed the address of its last byte (R261). -/
def jsrPushed (s : State) : State := push16 s (s.pc + 1)

theorem exec_jsr (w : Addr) (s : State) : exec (.jsr w) s = .next (jumpTo 3 6 (jsrTarget s (jsrPushed s) w) (jsrPushed s)) := rfl

/-- The words above the stack pointer, by the address of each byte (R177, R179). -/
theorem pulled16_eq (s : State) :
    pulled16 s = wordOf (peek s (0x0100#16 + zext16 (s.sp + 2))) (peek s (0x0100#16 + zext16 (s.sp + 1))) := by
  have hsp : s.sp + 1 + 1 = s.sp + 2 := BitVec.add_assoc _ _ _
  have hpeek : ∀ a, peek (pull8 s) a = peek s a := fun a => peek_congr rfl rfl rfl rfl rfl rfl a
  rw [pulled16, pulled8, pulled8, hpeek, pull8_sp, hsp]
  rfl

/-- Settles O27: JSR is one `Push16` and a jump to its operand as the pushes leave it; RTS is one `Pull16`. -/
theorem subroutineCallAndReturn : Obligations.SubroutineCallAndReturn := by
  refine ⟨fun s w hinv => ?_, fun s => ?_⟩
  · obtain ⟨⟨hwf, -⟩, -⟩ := hinv
    have hpushed : Pushed s (jsrPushed s) [hiByte (s.pc + 1), loByte (s.pc + 1)] := pushed2 hwf _ _
    have hlands : ∀ target, landing 3 target (jsrPushed s) = landsAt s 2 target := fun target =>
      (landing_congr (s := s) rfl rfl 3 target).trans (landing_eq 2 target s)
    refine ⟨_, exec_jsr w s, hpushed.of_peek rfl (peek_jumpTo _ _ _ _), rfl, rfl, rfl, rfl, rfl, rfl, ⟨rfl, rfl, rfl, rfl, rfl, rfl⟩,
      rfl, fun hlo hhi => ?_, fun hlo hhi => ?_⟩ <;> simp only [peek_jumpTo] at * <;> rw [jumpTo_pc, hlands, jsrTarget]
    · rw [rereadByte_of_eq hlo, rereadByte_of_eq hhi, wordOf_bytes]
    · rw [rereadByte_of_own hlo, rereadByte_of_own hhi]
  · have hsp : s.sp + 1 + 1 = s.sp + 2 := BitVec.add_assoc _ _ _
    have hpc : landing 1 (pulled16 s + 1) (pull16 s) = landsAt s 0 (pulled16 s + 1) :=
      (landing_congr (s := s) rfl rfl 1 _).trans (landing_eq 0 _ s)
    rw [pulled16_eq] at hpc
    refine ⟨_, rfl, ?_, ?_, rfl, quiet_of ⟨rfl, rfl, rfl, rfl, rfl, rfl⟩ rfl rfl rfl rfl⟩
    · rw [jumpTo_pc, pulled16_eq]
      exact hpc
    · rw [← hsp]
      rfl

/-! ### Interrupts (R282, R283) -/

/-- Where an instruction of one byte that set `pc` before lands: there (R156). -/
theorem landing_one (target : Addr) (s : State) : landing 1 target s = target := by
  unfold landing
  split
  · exact BitVec.add_zero target
  · rfl

theorem exec_brk_interrupt {s : State} (h : s.params.brkMode = .interrupt) :
    exec .brk s = .next (jumpTo 1 7 (takeInterrupt (s.pc + 1) (pushedWithBreak s.p) Config.brkVector s).pc
      (takeInterrupt (s.pc + 1) (pushedWithBreak s.p) Config.brkVector s)) := by
  simp only [exec, execBrk, h]

/-- Settles O31: in interrupt mode BRK takes the interrupt of `takeInterrupt_spec`; in halt mode it stops. -/
theorem break_ : Obligations.Break := by
  intro s hinv
  obtain ⟨⟨hwf, -⟩, -⟩ := hinv
  refine ⟨fun hmode => ?_, fun hmode => ?_⟩
  · obtain ⟨hpushed, hpc⟩ := takeInterrupt_spec (vector := Config.brkVector) hwf (s.pc + 1) (pushedWithBreak s.p) (by decide) (by decide)
    refine ⟨_, exec_brk_interrupt hmode, hpushed.of_peek rfl (peek_jumpTo _ _ _ _), ?_, ?_, ?_, ?_⟩
    · rw [jumpTo_pc, landing_one]
      exact hpc
    · rw [jumpTo_p, takeInterrupt_p, flagOf_withFlag, if_pos rfl]
    · rw [jumpTo_p, takeInterrupt_p]
      exact withFlag_keeps s.p .i true
    · simp [SameHost]
  · simp only [exec, execBrk, hmode]

theorem exec_rti (s : State) : exec .rti s = .next (jumpTo 1 6 (returnFromInterrupt s).pc (returnFromInterrupt s)) := rfl

/-- What a return pulls: the status, and then `pc` (R283). -/
theorem returnFromInterrupt_pulls (s : State) :
    (returnFromInterrupt s).p = withoutBreak (peek s (0x0100#16 + zext16 (s.sp + 1))) ∧
    (returnFromInterrupt s).pc =
      wordOf (peek s (0x0100#16 + zext16 (s.sp + 3))) (peek s (0x0100#16 + zext16 (s.sp + 2))) := by
  refine ⟨returnFromInterrupt_p s, ?_⟩
  have hsp1 : s.sp + 1 + 1 = s.sp + 2 := BitVec.add_assoc _ _ _
  have hsp2 : s.sp + 1 + 2 = s.sp + 3 := BitVec.add_assoc _ _ _
  have hpeek : ∀ a, peek ((pull8 s).writeP (withoutBreak (pulled8 s))) a = peek s a := fun a => peek_congr rfl rfl rfl rfl rfl rfl a
  rw [returnFromInterrupt_pc, pulled16_eq, hpeek, hpeek, State.writeP_sp, pull8_sp, hsp1, hsp2]

/-- Settles O32: `returnFromInterrupt_pulls`, with the frame of a register-file change. -/
theorem returnFromInterrupt_ : Obligations.ReturnFromInterrupt := by
  intro s
  obtain ⟨hp, hpc⟩ := returnFromInterrupt_pulls s
  have hsp : s.sp + 1 + 1 + 1 = s.sp + 3 := by rw [BitVec.add_assoc, BitVec.add_assoc]; rfl
  refine ⟨_, exec_rti s, hp, ?_, ?_, quiet_of (by simp [SameHost]) (by simp) (by simp) (by simp) (by simp)⟩
  · rw [jumpTo_pc, landing_one, hpc]
    unfold landsAt
    split
    · next h => rw [h.2]; exact (BitVec.add_zero _).symm
    · rfl
  · simp only [State.registers, jumpTo_a, jumpTo_x, jumpTo_y, jumpTo_sp, returnFromInterrupt_a, returnFromInterrupt_x,
      returnFromInterrupt_y, returnFromInterrupt_sp, hsp]

end Sys2Proof.Machine
end

section
/-! Returns undo entries, words come back from the stack and from RAM, and the joypad protocol (40 R176 to R179, 49 R440 to R442, 60 R474). -/

namespace Sys2Proof.Machine

/-! ### Words on the stack (R178, R179) -/

theorem push16_wf {s : State} (h : s.ram.wf = true) (v : Addr) : (push16 s v).ram.wf = true := push8_wf (push8_wf h)

theorem peek_pull16 (s : State) (a : Addr) : peek (pull16 s) a = peek s a := by
  refine peek_congr ?_ ?_ ?_ ?_ ?_ ?_ a <;> simp

/-- The two stack cells that a `Pull16` reads. -/
theorem pulled16_stack (s : State) :
    pulled16 s = wordOf (peek s (stackAddr (s.sp + 2))) (peek s (stackAddr (s.sp + 1))) := pulled16_eq s

/-- The two below them. -/
theorem pulled16_pull16_stack (s : State) :
    pulled16 (pull16 s) = wordOf (peek s (stackAddr (s.sp + 4))) (peek s (stackAddr (s.sp + 3))) := by
  have h4 : s.sp + 1 + 1 + 2 = s.sp + 4 := by rw [BitVec.add_assoc, BitVec.add_assoc]; rfl
  have h3 : s.sp + 1 + 1 + 1 = s.sp + 3 := by rw [BitVec.add_assoc, BitVec.add_assoc]; rfl
  rw [pulled16_stack, peek_pull16, peek_pull16, pull16_sp, h4, h3]

/-- A push of a word leaves the stack cells above the stack pointer. -/
theorem peek_push16_above {s : State} (h : s.ram.wf = true) (v : Addr) {d : Byte} (h0 : 0#8 < d) (h1 : d < 255#8) :
    peek (push16 s v) (stackAddr (s.sp + d)) = peek s (stackAddr (s.sp + d)) := by
  have hne0 : s.sp + d ≠ s.sp := by bv_omega
  have hne1 : s.sp + d ≠ s.sp - 1 := by bv_omega
  rw [push16, (peek_push8 (push8_wf h) _ _).2 (by rwa [sameRam_stack, push8_sp]),
    (peek_push8 h _ _).2 (by rwa [sameRam_stack])]

theorem pull16_push16_sp (s : State) (v : Addr) : (pull16 (push16 s v)).sp = s.sp := by
  rw [pull16_sp, push16_sp, BitVec.sub_add_cancel, BitVec.sub_add_cancel]

theorem pulled16_push16 {s : State} (h : s.ram.wf = true) (v : Addr) : pulled16 (push16 s v) = v := by
  have hpushed : Pushed s (push16 s v) [hiByte v, loByte v] := pushed2 h (hiByte v) (loByte v)
  obtain ⟨-, hbytes, -⟩ := hpushed
  have h2 : s.sp - 1 - 1 + 2 = s.sp - 0#8 := by bv_omega
  have h1 : s.sp - 1 - 1 + 1 = s.sp - 1#8 := by bv_omega
  have hhi : peek (push16 s v) (stackAddr (s.sp - 0#8)) = hiByte v := hbytes 0 _ rfl
  have hlo : peek (push16 s v) (stackAddr (s.sp - 1#8)) = loByte v := hbytes 1 _ rfl
  rw [pulled16_stack, push16_sp, h2, h1, hhi, hlo, wordOf_bytes]

/-- A word pushed and pulled does not show in the word below it. -/
theorem pulled16_pull16_push16 {s : State} (h : s.ram.wf = true) (v : Addr) : pulled16 (pull16 (push16 s v)) = pulled16 s := by
  rw [pulled16_stack, pull16_push16_sp, peek_pull16, peek_pull16, peek_push16_above h v (by decide) (by decide),
    peek_push16_above h v (by decide) (by decide), ← pulled16_stack]

/-- Nor in the word below that one. -/
theorem pulled16_pull16_pull16_push16 {s : State} (h : s.ram.wf = true) (v : Addr) :
    pulled16 (pull16 (pull16 (push16 s v))) = pulled16 (pull16 s) := by
  rw [pulled16_pull16_stack, pull16_push16_sp, peek_pull16, peek_pull16, peek_push16_above h v (by decide) (by decide),
    peek_push16_above h v (by decide) (by decide), ← pulled16_pull16_stack]

/-- Settles O34: each pull finds its own word, and the pushes above it left its cells alone. -/
theorem stackWords : Obligations.StackWords := by
  intro s v1 v2 v3 hinv
  obtain ⟨⟨hwf, -⟩, -⟩ := hinv
  have hwf1 := push16_wf hwf v1
  have hwf2 := push16_wf hwf1 v2
  refine ⟨pulled16_push16 hwf2 v3, ?_, ?_, ?_⟩
  · rw [pulled16_pull16_push16 hwf2, pulled16_push16 hwf1]
  · rw [pulled16_pull16_pull16_push16 hwf2, pulled16_pull16_push16 hwf1, pulled16_push16 hwf]
  · simp only [pull16_sp, push16_sp, BitVec.sub_add_cancel]

/-! ### Returns (R262, R474) -/

/-- The status pushed by an entry, with break cleared and break2 set again, is the interrupted one (R472, R474). -/
theorem withoutBreak_pushed {p status : Byte} (h : StatusOk p) (hstatus : status = withoutBreak p ∨ status = pushedWithBreak p) :
    withoutBreak status = p := by
  obtain ⟨hb, hu⟩ := h
  refine status_ext fun f => ?_
  rcases hstatus with rfl | rfl <;> cases f <;> simp [flagOf_withoutBreak, flagOf_pushedWithBreak, hb, hu]

/-- An interrupt entry through any vector pushes three bytes (R470). -/
theorem takeInterrupt_pushed {s : State} (h : s.ram.wf = true) (back vector : Addr) (status : Byte) :
    Pushed s (takeInterrupt back status vector s) [hiByte back, loByte back, status] := by
  refine (pushed3 h (hiByte back) (loByte back) status).of_peek (takeInterrupt_sp ..) fun a => ?_
  refine peek_congr ?_ ?_ ?_ ?_ ?_ ?_ a <;> simp [takeInterrupt, push16]

theorem peek_returnFromInterrupt (s : State) (a : Addr) : peek (returnFromInterrupt s) a = peek s a := by
  refine peek_congr ?_ ?_ ?_ ?_ ?_ ?_ a <;> simp

/-- RTI after an interrupt entry (R474). -/
theorem rti_takeInterrupt {s : State} (hinv : s.Inv) (back vector : Addr) {status : Byte}
    (hstatus : status = withoutBreak s.p ∨ status = pushedWithBreak s.p) :
    ∃ t, exec .rti (takeInterrupt back status vector s) = .next t ∧ t.pc = back ∧ t.p = s.p ∧ t.registers = s.registers ∧
      t.ppu = s.ppu ∧ t.joypad = s.joypad ∧ SameHost s t ∧ t.run = s.run ∧
      ∀ a, (∀ k : Fin 3, ¬ sameRamCell a (0x0100#16 + zext16 (s.sp - BitVec.ofNat 8 k.val))) → peek t a = peek s a := by
  obtain ⟨⟨hwf, -⟩, -, hp, -⟩ := hinv
  obtain ⟨hsp, hbytes, hother⟩ := takeInterrupt_pushed hwf back vector status
  obtain ⟨hpulledP, hpulledPc⟩ := returnFromInterrupt_pulls (takeInterrupt back status vector s)
  have h3 : (takeInterrupt back status vector s).sp + 3 = s.sp - 0#8 := by
    rw [hsp]
    show s.sp - 3#8 + 3#8 = s.sp - 0#8
    bv_omega
  have h2 : (takeInterrupt back status vector s).sp + 2 = s.sp - 1#8 := by
    rw [hsp]
    show s.sp - 3#8 + 2#8 = s.sp - 1#8
    bv_omega
  have h1 : (takeInterrupt back status vector s).sp + 1 = s.sp - 2#8 := by
    rw [hsp]
    show s.sp - 3#8 + 1#8 = s.sp - 2#8
    bv_omega
  have hpeek3 : peek (takeInterrupt back status vector s) (0x0100#16 + zext16 (s.sp - 0#8)) = hiByte back := hbytes 0 _ rfl
  have hpeek2 : peek (takeInterrupt back status vector s) (0x0100#16 + zext16 (s.sp - 1#8)) = loByte back := hbytes 1 _ rfl
  have hpeek1 : peek (takeInterrupt back status vector s) (0x0100#16 + zext16 (s.sp - 2#8)) = status := hbytes 2 _ rfl
  refine ⟨_, exec_rti _, ?_, ?_, ?_, by simp, by simp, by simp [SameHost], by simp, fun a ha => ?_⟩
  · rw [jumpTo_pc, landing_one, hpulledPc, h3, h2, hpeek3, hpeek2, wordOf_bytes]
  · rw [jumpTo_p, hpulledP, h1, hpeek1, withoutBreak_pushed hp hstatus]
  · have hback : s.sp - 1 - 1 - 1 + 1 + 1 + 1 = s.sp := by simp only [BitVec.sub_add_cancel]
    simp only [State.registers, jumpTo_a, jumpTo_x, jumpTo_y, jumpTo_sp, returnFromInterrupt_a, returnFromInterrupt_x,
      returnFromInterrupt_y, returnFromInterrupt_sp, takeInterrupt_a, takeInterrupt_x, takeInterrupt_y, takeInterrupt_sp, hback]
  · rw [peek_jumpTo, peek_returnFromInterrupt, hother a fun k _ => ha k]

theorem exec_rts (s : State) : exec .rts s = .next (jumpTo 1 6 (pulled16 s + 1) (pull16 s)) := rfl

/-- RTS after a JSR (R262). -/
theorem rts_jsr {s : State} (hwf : s.ram.wf = true) (w : Addr) :
    ∃ u t, exec (.jsr w) s = .next u ∧ exec .rts { u with pc := u.pc + 1 } = .next t ∧ t.pc = s.pc + 2 ∧
      t.registers = s.registers ∧ t.p = s.p ∧ t.ppu = s.ppu ∧ t.joypad = s.joypad ∧ SameHost s t ∧ t.run = s.run ∧
      ∀ a, (∀ k : Fin 2, ¬ sameRamCell a (0x0100#16 + zext16 (s.sp - BitVec.ofNat 8 k.val))) → peek t a = peek s a := by
  have hpushed : Pushed s (push16 s (s.pc + 1)) [hiByte (s.pc + 1), loByte (s.pc + 1)] := pushed2 hwf _ _
  obtain ⟨-, -, hother⟩ := hpushed
  have hpulled : ∀ pc cycles, pulled16 { push16 s (s.pc + 1) with pc := pc, cycles := cycles } = s.pc + 1 := fun _ _ =>
    pulled16_push16 hwf (s.pc + 1)
  have hnext : s.pc + 1 + 1 = s.pc + 2 := BitVec.add_assoc _ _ _
  refine ⟨_, _, exec_jsr w s, exec_rts _, ?_, ?_, ?_⟩
  · rw [jumpTo_pc, landing_one]
    exact (congrArg (· + 1) (hpulled _ _)).trans hnext
  · simp [jsrPushed]
  · refine ⟨by simp [jsrPushed], by simp [jsrPushed], by simp [jsrPushed], by simp [jsrPushed, SameHost], by simp [jsrPushed],
      fun a ha => ?_⟩
    rw [peek_jumpTo, peek_pull16]
    exact hother a fun k hk => ha ⟨k.val, hk⟩

/-- Settles O33: `rti_takeInterrupt` and `rts_jsr`. -/
theorem returnsUndoEntries : Obligations.ReturnsUndoEntries := fun _ back vector w hinv _ =>
  ⟨fun _ hstatus => rti_takeInterrupt hinv back vector hstatus, rts_jsr hinv.1.1 w⟩

/-! ### Words in RAM (R85, R422) -/

theorem busWrite_ram {s : State} {a : Addr} (h : a ≤ 0x1FFF#16) (v : Byte) : busWrite s a v = .next (writeRam s a v) := by
  simp only [busWrite, h, if_true]

theorem afterRead_ramWindow {s : State} {a : Addr} (h : a ≤ 0x1FFF#16) : afterRead s a = s := by
  simp only [afterRead, h, if_true]

/-- Settles O39: the two bytes of a word are two different RAM cells. -/
theorem wordRoundTrip : Obligations.WordRoundTrip := by
  intro s a v hinv hle
  obtain ⟨⟨hwf, -⟩, -⟩ := hinv
  have ha : a ≤ 0x1FFF#16 := by bv_omega
  have ha1 : a + 1 ≤ 0x1FFF#16 := by bv_omega
  have hne : ¬ sameRamCell a (a + 1) := by rintro ⟨-, -, h⟩; bv_omega
  have hself : ∀ {b : Addr}, b ≤ 0x1FFF#16 → sameRamCell b b := fun hb => ⟨hb, hb, rfl⟩
  have hlow := peek_writeRam hwf ha (loByte v)
  have hhigh := peek_writeRam (s := writeRam s a (loByte v)) (Memory.wf_write hwf) ha1 (hiByte v)
  have hpeekLow : peek (writeRam (writeRam s a (loByte v)) (a + 1) (hiByte v)) a = loByte v := by
    rw [(hhigh a).2 hne, (hlow a).1 (hself ha)]
  have hpeekHigh : peek (writeRam (writeRam s a (loByte v)) (a + 1) (hiByte v)) (a + 1) = hiByte v := (hhigh _).1 (hself ha1)
  refine ⟨_, ?_, ?_, hpeekLow, hpeekHigh, fun b hb hb1 => ?_⟩
  · rw [busWrite16, busWrite_ram ha, andThen, busWrite_ram ha1]
  · rw [read16, afterRead_ramWindow ha, hpeekLow, hpeekHigh, wordOf_bytes]
  · rw [(hhigh b).2 hb1, (hlow b).2 hb]

/-! ### The joypad (R440 to R442) -/

theorem busWrite_joypad (s : State) (v : Byte) : busWrite s 0x4016 v = .next { s with joypad := joypadWrite s.joypad v } := rfl

theorem peek_joypad (s : State) : peek s 0x4016 = joypadValue s.joypad := rfl

/-- Reads of the joypad's address are reads of the joypad, one after the other. -/
theorem iterate_afterRead_joypad (k : Nat) (s : State) :
    ((fun q => afterRead q 0x4016)^[k] s).joypad = joypadAfterRead^[k] s.joypad :=
  (Function.Semiconj.iterate_right (f := State.joypad) (ga := fun q => afterRead q 0x4016) (gb := joypadAfterRead) (fun _ => rfl) k).eq s

/-- An armed strobe holds the index (R441). -/
theorem joypadAfterRead_of_strobe {j : Joypad} (h : j.strobe = true) : joypadAfterRead j = j := by
  simp only [joypadAfterRead, h, if_true, ite_self]

/-- With the strobe off the index counts the reads, up to 8 (R441). -/
theorem iterate_joypadAfterRead (b : Byte) (k : Nat) :
    joypadAfterRead^[k] ⟨false, 0, b⟩ = ⟨false, min k 8, b⟩ := by
  induction k with
  | zero => rfl
  | succ k ih =>
    rw [Function.iterate_succ_apply', ih, joypadAfterRead]
    by_cases hk : k < 8
    · have h7 : ¬ 7 < min k 8 := by omega
      have hmin : min k 8 + 1 = min (k + 1) 8 := by omega
      simp only [h7, if_false, Bool.false_eq_true, hmin]
    · have h7 : 7 < min k 8 := by omega
      have hmin : min k 8 = min (k + 1) 8 := by omega
      rw [if_pos h7, hmin]

/-- The bit that a read gives (R441, R442). -/
theorem joypadValue_eq (strobe : Bool) (k : Nat) (b : Byte) :
    joypadValue ⟨strobe, min k 8, b⟩ = if b.getLsbD k = true ∨ 8 ≤ k then 1 else 0 := by
  unfold joypadValue
  by_cases hk : k < 8
  · have hmin : min k 8 = k := by omega
    rw [if_neg (by show ¬ 7 < min k 8; omega)]
    simp only [hmin, bitOf]
    have hk' : ¬ 8 ≤ k := by omega
    cases b.getLsbD k <;> simp [hk']
  · rw [if_pos (by show 7 < min k 8; omega), if_pos (Or.inr (by omega))]

/-- Settles O41: the index after `k` reads is `k`, stopped at 8, or 0 while the strobe is armed. -/
theorem joypadProtocol : Obligations.JoypadProtocol := by
  intro s v w hv hw
  refine ⟨_, _, busWrite_joypad s v, busWrite_joypad _ w, fun k => ⟨?_, ?_⟩⟩ <;>
    rw [peek_joypad, iterate_afterRead_joypad]
  · have harmed : joypadWrite s.joypad v = ⟨true, min 0 8, s.joypad.buttons⟩ := by simp [joypadWrite, hv]
    rw [harmed, Function.iterate_fixed (joypadAfterRead_of_strobe rfl), joypadValue_eq]
    simp
  · have hclear : joypadWrite (joypadWrite s.joypad v) w = ⟨false, 0, s.joypad.buttons⟩ := by simp only [joypadWrite, hv, hw, if_true, Bool.false_eq_true, if_false]
    rw [hclear, iterate_joypadAfterRead, joypadValue_eq]

end Sys2Proof.Machine
end

section
/-! The PPU's port (47): what reads give, what writes do, the write-twice protocol, and PPU memory through its mirrors (20 R90 to R92). -/

namespace Sys2Proof.Machine

/-! ### Bits and fields as numbers -/

theorem bit_toNat {n : Nat} (v : BitVec n) (i : Nat) : (v.getLsbD i).toNat = v.toNat / 2 ^ i % 2 := by
  rw [BitVec.getLsbD, Nat.toNat_testBit]

theorem bitOf_toNat {n w : Nat} (hw : 0 < w) (v : BitVec n) (i : Nat) : (bitOf w v i).toNat = v.toNat / 2 ^ i % 2 := by
  have hpow : 2 ^ 1 ≤ 2 ^ w := Nat.pow_le_pow_right (by decide) hw
  rw [bitOf, BitVec.toNat_setWidth, BitVec.toNat_ofBool, bit_toNat]
  exact Nat.mod_eq_of_lt (by omega)

/-- A field of a loopy register as a number (R38). -/
theorem loopyField_toNat (r : Loopy) (lo len : Nat) : (Loopy.field r lo len).toNat = r.toNat / 2 ^ lo % 2 ^ len := by
  rw [Loopy.field, BitVec.extractLsb'_toNat, Nat.shiftRight_eq_div_pow]

/-- The low byte of a loopy register replaced (R344). -/
theorem replaceLowByte_toNat (r : Loopy) (v : Byte) :
    ((r &&& 0x7F00#15) ||| v.setWidth 15).toNat = 256 * (r.toNat / 256) + v.toNat := by
  have happend : (r &&& 0x7F00#15) ||| v.setWidth 15 = r.extractLsb' 8 7 ++ v := by
    have hmask : ∀ i < 15, (0x7F00#15).getLsbD i = decide (8 ≤ i) := by decide
    refine BitVec.eq_of_getLsbD_eq fun i hi => ?_
    rw [BitVec.getLsbD_or, BitVec.getLsbD_and, hmask i hi, BitVec.getLsbD_setWidth, BitVec.getLsbD_append]
    by_cases h8 : i < 8
    · simp [h8, hi]
    · have hle : 8 ≤ i := by omega
      have hsub : i - 8 < 7 := by omega
      simp [h8, hle, hsub]
  have hlt := r.isLt
  have hv := v.isLt
  rw [happend, BitVec.toNat_append, ← Nat.shiftLeft_add_eq_or_of_lt hv, Nat.shiftLeft_eq, BitVec.extractLsb'_toNat,
    Nat.shiftRight_eq_div_pow]
  omega

/-- The high bits of a loopy register replaced by six of a byte (R343). -/
theorem replaceHighBits_toNat (r : Loopy) (v : Byte) :
    (((v &&& 0x3F#8).setWidth 15 <<< 8) ||| (r &&& 0x00FF#15)).toNat = 256 * (v.toNat % 64) + r.toNat % 256 := by
  have hv : (v &&& 0x3F#8).toNat = v.toNat % 64 := by
    rw [BitVec.toNat_and]
    exact Nat.and_two_pow_sub_one_eq_mod v.toNat 6
  have hr : (r &&& 0x00FF#15).toNat = r.toNat % 256 := by
    rw [BitVec.toNat_and]
    exact Nat.and_two_pow_sub_one_eq_mod r.toNat 8
  have hlow : r.toNat % 256 < 2 ^ 8 := by omega
  have hhigh : (v.toNat % 64) <<< 8 % 2 ^ 15 = (v.toNat % 64) <<< 8 := by
    rw [Nat.shiftLeft_eq]
    omega
  have hsmall : v.toNat % 64 % 2 ^ 15 = v.toNat % 64 := by omega
  rw [BitVec.toNat_or, BitVec.toNat_shiftLeft, BitVec.toNat_setWidth, hv, hr, hsmall, hhigh, ← Nat.shiftLeft_add_eq_or_of_lt hlow,
    Nat.shiftLeft_eq]
  omega

/-! ### Reads (R335, R336, R339, R346) -/

/-- The address bits of the pointer (R351). -/
theorem dataAddr_eq (u : Ppu) : u.dataAddr = BitVec.ofNat 14 u.vramAddr.toNat := by
  apply BitVec.eq_of_toNat_eq
  rw [Ppu.dataAddr, BitVec.toNat_setWidth, BitVec.toNat_ofNat]

/-- The status is the three flags over the low five bits of the buffer (R336). -/
theorem statusValue_bits (u : Ppu) :
    (statusValue u).getLsbD 7 = u.verticalBlank ∧ (statusValue u).getLsbD 6 = u.spriteZeroHit ∧
    (statusValue u).getLsbD 5 = u.spriteOverflow ∧ (statusValue u).toNat % 32 = u.dataBuffer.toNat % 32 := by
  have hlow : (statusValue u).setWidth 5 = u.dataBuffer.setWidth 5 := by
    have hhigh : ∀ i < 5, (0xE0#8).getLsbD i = false ∧ (0x1F#8).getLsbD i = true := by decide
    refine BitVec.eq_of_getLsbD_eq fun i hi => ?_
    obtain ⟨hE0, h1F⟩ := hhigh i hi
    simp only [statusValue, BitVec.getLsbD_setWidth, BitVec.getLsbD_or, BitVec.getLsbD_and, hE0, h1F, Bool.and_false, Bool.and_true,
      Bool.false_or]
  have hmod := congrArg BitVec.toNat hlow
  rw [BitVec.toNat_setWidth, BitVec.toNat_setWidth] at hmod
  refine ⟨?_, ?_, ?_, hmod⟩ <;> unfold statusValue Ppu.status <;>
    cases u.verticalBlank <;> cases u.spriteZeroHit <;> cases u.spriteOverflow <;> simp

theorem dataValue_eq (u : Ppu) : dataValue u = if u.vramAddr.toNat % 0x4000 < 0x3F00 then u.dataBuffer
    else ppuRead u (BitVec.ofNat 14 u.vramAddr.toNat) := by
  have hle : 0x3F00#14 ≤ u.dataAddr ↔ ¬ u.vramAddr.toNat % 0x4000 < 0x3F00 := by
    rw [BitVec.le_def, dataAddr_eq, BitVec.toNat_ofNat, Nat.not_lt]
    rfl
  unfold dataValue
  rw [dataAddr_eq] at *
  by_cases h : u.vramAddr.toNat % 0x4000 < 0x3F00
  · rw [if_neg (mt hle.mp (not_not_intro h)), if_pos h]
  · rw [if_pos (hle.mpr h), if_neg h]

/-- Settles O42: the register number is the address modulo 8. -/
theorem ppuRegisterReads : Obligations.PpuRegisterReads := by
  intro s a hwin
  have hregister : ∀ r : BitVec 3, a.toNat % 8 = r.toNat → peek s a = ppuRegValue s.params.ppuWoRead s.ppu r := fun r hr => by
    rw [peek_inPpuWindow s hwin, (ppuRegister_eq_iff a r).2 hr]
  refine ⟨fun h => ?_, fun h => ?_, fun h => ?_, fun h => ?_⟩
  · rw [hregister 2 h]
    exact statusValue_bits s.ppu
  · exact hregister 4 h
  · rw [hregister 7 h]
    exact dataValue_eq s.ppu
  · rcases h with h | h | h | h | h
    · exact hregister 0 h
    · exact hregister 1 h
    · exact hregister 3 h
    · exact hregister 5 h
    · exact hregister 6 h

/-! ### Writes (R332 to R334, R337, R338, R345, R347) -/

/-- A write of PPU memory changes the two writable memories only (R353). -/
theorem ppuWrite_eq (u : Ppu) (a : PpuAddr) (v : Byte) :
    ppuWrite u a v = { u with vram := (ppuWrite u a v).vram, palette := (ppuWrite u a v).palette } := by
  unfold ppuWrite
  split
  · rfl
  · split <;> rfl

/-- The pointer steps by 1 or 32 (R347). -/
theorem vramStep_eq (u : Ppu) :
    vramStep u = { u with vramAddr := BitVec.ofNat 15 (u.vramAddr.toNat + if u.control.getLsbD 2 then 32 else 1) } := by
  have hstep : ∀ n : Nat, BitVec.ofNat 15 (u.vramAddr.toNat + n) = u.vramAddr + BitVec.ofNat 15 n := fun n => by
    rw [BitVec.ofNat_add, BitVec.ofNat_toNat, BitVec.setWidth_eq]
  unfold vramStep Ppu.incrementMode
  rw [hstep]
  split <;> rfl

/-- A write of Control (R332). -/
theorem writeControl_fields (u : Ppu) (v : Byte) :
    ∃ t : Loopy, writeControl u v = { u with control := v, tramAddr := t } ∧ t.nametableX.toNat = v.toNat % 2 ∧
      t.nametableY.toNat = v.toNat / 2 % 2 ∧ t.coarseX = u.tramAddr.coarseX ∧ t.coarseY = u.tramAddr.coarseY ∧
      t.fineY = u.tramAddr.fineY := by
  refine ⟨_, rfl, ?_, ?_, by simp, by simp, by simp⟩
  · rw [Loopy.nametableX_setNametableY, Loopy.nametableX_setNametableX, bitOf_toNat (by decide), Nat.pow_zero, Nat.div_one]
  · rw [Loopy.nametableY_setNametableY, bitOf_toNat (by decide), Nat.pow_one]

/-- Settles O43: register by register; the data write goes through `ppuWrite_eq` and `vramStep_eq`. -/
theorem ppuRegisterWrites : Obligations.PpuRegisterWrites := by
  intro u v hinv
  obtain ⟨⟨-, -, -, hoam, -⟩, -⟩ := hinv
  refine ⟨writeControl_fields u v, rfl, rfl, rfl, ⟨_, rfl, fun k => Memory.read_write hoam ..⟩, _, _, ?_, rfl, rfl⟩
  show writeData u v = _
  rw [writeData, dataAddr_eq, vramStep_eq, ppuWrite_eq]

/-! ### The write-twice protocol (R336, R340 to R344) -/

theorem scroll_scroll {u : Ppu} (h : u.writeToggle = false) (v1 v2 : Byte) :
    ppuRegWrite (ppuRegWrite u 5 v1) 5 v2 = { u with
      fineX := v1.extractLsb' 0 3
      tramAddr := ((u.tramAddr.setCoarseX (v1.extractLsb' 3 5)).setFineY (v2.extractLsb' 0 3)).setCoarseY (v2.extractLsb' 3 5) } := by
  cases u
  cases h
  rfl

/-- The temporary pointer after a first write of Address (R343). -/
def firstAddress (t : Loopy) (v : Byte) : Loopy := ((v &&& 0x3F#8).setWidth 15 <<< 8) ||| (t &&& 0x00FF#15)

/-- The pointer after a second write of Address (R344). -/
def secondAddress (t : Loopy) (v : Byte) : Loopy := (t &&& 0x7F00#15) ||| v.setWidth 15

theorem firstAddress_toNat (t : Loopy) (v : Byte) : (firstAddress t v).toNat = 256 * (v.toNat % 64) + t.toNat % 256 :=
  replaceHighBits_toNat t v

theorem secondAddress_toNat (t : Loopy) (v : Byte) : (secondAddress t v).toNat = 256 * (t.toNat / 256) + v.toNat :=
  replaceLowByte_toNat t v

theorem address_address {u : Ppu} (h : u.writeToggle = false) (v1 v2 : Byte) :
    ppuRegWrite (ppuRegWrite u 6 v1) 6 v2 = { u with
      vramAddr := secondAddress (firstAddress u.tramAddr v1) v2
      tramAddr := secondAddress (firstAddress u.tramAddr v1) v2 } := by
  cases u
  cases h
  rfl

theorem scroll_address {u : Ppu} (h : u.writeToggle = false) (v1 v2 : Byte) :
    ppuRegWrite (ppuRegWrite u 5 v1) 6 v2 = { u with
      fineX := v1.extractLsb' 0 3
      vramAddr := secondAddress (u.tramAddr.setCoarseX (v1.extractLsb' 3 5)) v2
      tramAddr := secondAddress (u.tramAddr.setCoarseX (v1.extractLsb' 3 5)) v2 } := by
  cases u
  cases h
  rfl

theorem address_scroll {u : Ppu} (h : u.writeToggle = false) (v1 v2 : Byte) :
    ppuRegWrite (ppuRegWrite u 6 v1) 5 v2 = { u with
      tramAddr := ((firstAddress u.tramAddr v1).setFineY (v2.extractLsb' 0 3)).setCoarseY (v2.extractLsb' 3 5) } := by
  cases u
  cases h
  rfl

/-- The two fields of a byte written to Scroll (R341, R342). -/
theorem scrollByte_fields (v : Byte) : (v.extractLsb' 0 3).toNat = v.toNat % 8 ∧ (v.extractLsb' 3 5).toNat = v.toNat / 8 := by
  have hlt := v.isLt
  rw [BitVec.extractLsb'_toNat, BitVec.extractLsb'_toNat, Nat.shiftRight_zero, Nat.shiftRight_eq_div_pow]
  omega

/-- The bits above the coarse X scroll stand when it is written. -/
theorem setCoarseX_high (t : Loopy) (c : BitVec 5) : (t.setCoarseX c).toNat / 256 = t.toNat / 256 := by
  have h := congrArg BitVec.toNat (Loopy.field_setField_other t 0 8 7 c (by decide) (by decide))
  rw [loopyField_toNat, loopyField_toNat] at h
  have h1 := (t.setField 0 c).isLt
  have h2 := t.isLt
  rw [Loopy.setCoarseX]
  omega

/-- The fields that a first write of Address leaves in the temporary pointer (R343). -/
theorem firstAddress_fields (t : Loopy) (v : Byte) :
    (firstAddress t v).coarseX = t.coarseX ∧ (firstAddress t v).nametableX.toNat = v.toNat / 4 % 2 ∧
    (firstAddress t v).nametableY.toNat = v.toNat / 8 % 2 := by
  refine ⟨BitVec.eq_of_toNat_eq ?_, ?_, ?_⟩
  · rw [Loopy.coarseX, Loopy.coarseX, loopyField_toNat, loopyField_toNat, firstAddress_toNat]
    omega
  · rw [Loopy.nametableX, loopyField_toNat, firstAddress_toNat]
    omega
  · rw [Loopy.nametableY, loopyField_toNat, firstAddress_toNat]
    omega

/-- A first write to Scroll or Address sets the toggle (R340), and a read of Status clears it (R336). -/
theorem toggle_of_first_write {u : Ppu} (h : u.writeToggle = false) (v : Byte) {r : BitVec 3} (hr : r = 5 ∨ r = 6) :
    (ppuRegWrite u r v).writeToggle = true ∧ (ppuRegAfterRead (ppuRegWrite u r v) 2).writeToggle = false := by
  refine ⟨?_, rfl⟩
  cases u
  cases h
  rcases hr with rfl | rfl <;> rfl

/-- Settles O44: the four pairs of writes as one record update each, and their fields as numbers. -/
theorem writeTwiceProtocol : Obligations.WriteTwiceProtocol := by
  intro u v1 v2 h
  obtain ⟨hfine1, hcoarse1⟩ := scrollByte_fields v1
  obtain ⟨hfine2, hcoarse2⟩ := scrollByte_fields v2
  obtain ⟨hx, hnx, hny⟩ := firstAddress_fields u.tramAddr v1
  refine ⟨?_, ?_, ?_, ?_, fun r hr => toggle_of_first_write h v1 hr⟩
  · rw [scroll_scroll h]
    refine ⟨rfl, hfine1, ?_, ?_, ?_, ?_, ?_⟩ <;> simp [hcoarse1, hfine2, hcoarse2]
  · rw [address_address h]
    refine ⟨rfl, ?_⟩
    rw [secondAddress_toNat, firstAddress_toNat]
    omega
  · rw [scroll_address h]
    have hlt := v2.isLt
    have hhigh := setCoarseX_high u.tramAddr (v1.extractLsb' 3 5)
    refine ⟨h, rfl, ?_, hfine1, ?_⟩
    · rw [secondAddress_toNat]
      omega
    · rw [secondAddress_toNat]
      omega
  · rw [address_scroll h]
    refine ⟨rfl, ?_, ?_, ?_, ?_, ?_⟩ <;> simp [hx, hnx, hny, hfine2, hcoarse2]

/-! ### PPU memory (R90 to R93, R352, R353) -/

/-- A name-table address without its mirror bit (R91). -/
theorem nameTableOffset_eq {a : PpuAddr} (h : 0x2000#14 ≤ a) : (a &&& 0x2FFF#14).toNat - 0x2000 = a.toNat % 0x1000 := by
  have happend : a &&& 0x2FFF#14 = a.extractLsb' 13 1 ++ (0#1 ++ a.extractLsb' 0 12) := by
    have hmask : ∀ i < 14, (0x2FFF#14).getLsbD i = decide (i ≠ 12) := by decide
    refine BitVec.eq_of_getLsbD_eq fun i hi => ?_
    rw [BitVec.getLsbD_and, hmask i hi, BitVec.getLsbD_append, BitVec.getLsbD_append]
    by_cases h12 : i < 12
    · have h13 : i < 1 + 12 := by omega
      have hne : i ≠ 12 := by omega
      simp [h12, h13, hne]
    · have hcases : i = 12 ∨ i = 13 := by omega
      rcases hcases with rfl | rfl <;> simp
  have hle : 0x2000 ≤ a.toNat := h
  have hlt := a.isLt
  have hlow : a.toNat % 2 ^ 12 < 2 ^ 13 := by omega
  rw [happend]
  simp only [BitVec.toNat_append, BitVec.extractLsb'_toNat, Nat.shiftRight_eq_div_pow, BitVec.toNat_ofNat, Nat.zero_mod,
    Nat.zero_shiftLeft, Nat.zero_or, Nat.pow_zero, Nat.div_one]
  rw [← Nat.shiftLeft_add_eq_or_of_lt hlow, Nat.shiftLeft_eq]
  omega

/-- The half of the 2 KiB that a name-table address lies in (R91). -/
def nameTableHalf : Mirroring → PpuAddr → Nat
  | .horizontal, a => a.toNat / 0x800 % 2
  | .vertical, a => a.toNat / 0x400 % 2

theorem ntIndex_eq (m : Mirroring) {a : PpuAddr} (h : 0x2000#14 ≤ a) : ntIndex m a = 0x400 * nameTableHalf m a + a.toNat % 0x400 := by
  unfold ntIndex
  rw [nameTableOffset_eq h]
  cases m with
  | horizontal =>
    simp only [ntBank, nameTableHalf]
    split <;> omega
  | vertical =>
    simp only [ntBank, nameTableHalf]
    omega

theorem ntIndex_eq_iff (m : Mirroring) {a b : PpuAddr} (ha : 0x2000#14 ≤ a) (hb : 0x2000#14 ≤ b) :
    ntIndex m b = ntIndex m a ↔ sameNameTableCell m a b := by
  rw [ntIndex_eq m ha, ntIndex_eq m hb]
  cases m <;> simp only [nameTableHalf, sameNameTableCell] <;> omega

theorem palIndex_eq_iff (a b : PpuAddr) : palIndex b = palIndex a ↔ samePaletteCell a b := by
  have hoffset : ∀ c : PpuAddr, (c &&& 0x001F#14).toNat = c.toNat % 32 := fun c => by
    rw [BitVec.toNat_and]
    exact Nat.and_two_pow_sub_one_eq_mod c.toNat 5
  unfold palIndex samePaletteCell
  rw [hoffset, hoffset]
  dsimp only
  split <;> split <;> omega

theorem ppuRead_nameTable {a : PpuAddr} (hlo : 0x2000#14 ≤ a) (hhi : a < 0x3F00#14) (u : Ppu) :
    ppuRead u a = u.vram.read (ntIndex u.mirroring a) := by
  rw [ppuRead, if_neg (by bv_omega), if_pos hhi]

theorem ppuRead_palette {a : PpuAddr} (h : 0x3F00#14 ≤ a) (u : Ppu) : ppuRead u a = u.palette.read (palIndex a) &&& u.paletteMask := by
  rw [ppuRead, if_neg (by bv_omega), if_neg (by bv_omega)]

theorem ppuWrite_nameTable {a : PpuAddr} (hlo : 0x2000#14 ≤ a) (hhi : a < 0x3F00#14) (u : Ppu) (v : Byte) :
    ppuWrite u a v = { u with vram := u.vram.write (ntIndex u.mirroring a) v } := by
  rw [ppuWrite, if_neg (by bv_omega), if_pos hhi]

theorem ppuWrite_palette {a : PpuAddr} (h : 0x3F00#14 ≤ a) (u : Ppu) (v : Byte) :
    ppuWrite u a v = { u with palette := u.palette.write (palIndex a) v } := by
  rw [ppuWrite, if_neg (by bv_omega), if_neg (by bv_omega)]

/-- A read after a write to the name tables (R91). -/
theorem ppuRead_ppuWrite_nameTable {u : Ppu} (hwf : u.vram.wf = true) {a : PpuAddr} (hlo : 0x2000#14 ≤ a) (hhi : a < 0x3F00#14) (v : Byte)
    (b : PpuAddr) :
    (0x2000#14 ≤ b → b < 0x3F00#14 → sameNameTableCell u.mirroring a b → ppuRead (ppuWrite u a v) b = v) ∧
    (b < 0x2000#14 ∨ 0x3F00#14 ≤ b ∨ ¬ sameNameTableCell u.mirroring a b → ppuRead (ppuWrite u a v) b = ppuRead u b) := by
  rw [ppuWrite_nameTable hlo hhi]
  refine ⟨fun hblo hbhi hsame => ?_, fun hother => ?_⟩
  · rw [ppuRead_nameTable hblo hbhi, Memory.read_write hwf, if_pos ((ntIndex_eq_iff _ hlo hblo).2 hsame)]
  · by_cases hb : 0x2000#14 ≤ b ∧ b < 0x3F00#14
    · obtain ⟨hblo, hbhi⟩ := hb
      have hne : ¬ sameNameTableCell u.mirroring a b := by
        rcases hother with h | h | h
        · exact absurd hblo (by bv_omega)
        · exact absurd hbhi (by bv_omega)
        · exact h
      rw [ppuRead_nameTable hblo hbhi, ppuRead_nameTable hblo hbhi, Memory.read_write hwf, if_neg (mt (ntIndex_eq_iff _ hlo hblo).1 hne)]
    · unfold ppuRead
      split
      · rfl
      · next h1 =>
        rw [if_neg fun h2 => hb ⟨by bv_omega, h2⟩, if_neg fun h2 => hb ⟨by bv_omega, h2⟩]
        rfl

/-- A read after a write to the palette (R92, R352). -/
theorem ppuRead_ppuWrite_palette {u : Ppu} (hwf : u.palette.wf = true) {a : PpuAddr} (ha : 0x3F00#14 ≤ a) (v : Byte) (b : PpuAddr) :
    (0x3F00#14 ≤ b → samePaletteCell a b → ppuRead (ppuWrite u a v) b = v &&& u.paletteMask) ∧
    (b < 0x3F00#14 ∨ ¬ samePaletteCell a b → ppuRead (ppuWrite u a v) b = ppuRead u b) := by
  rw [ppuWrite_palette ha]
  refine ⟨fun hb hsame => ?_, fun hother => ?_⟩
  · rw [ppuRead_palette hb, Memory.read_write hwf, if_pos ((palIndex_eq_iff a b).2 hsame)]
    rfl
  · by_cases hb : 0x3F00#14 ≤ b
    · have hne : ¬ samePaletteCell a b := hother.resolve_left (by bv_omega)
      rw [ppuRead_palette hb, ppuRead_palette hb, Memory.read_write hwf, if_neg (mt (palIndex_eq_iff a b).1 hne)]
      rfl
    · have hlt : b < 0x3F00#14 := by bv_omega
      unfold ppuRead
      rw [if_pos hlt, if_pos hlt]

/-- Settles O45: region by region. -/
theorem ppuMemoryReadAfterWrite : Obligations.PpuMemoryReadAfterWrite := by
  intro u a b v hinv
  obtain ⟨⟨-, ⟨hvram, -⟩, ⟨hpalette, -⟩, -⟩, -⟩ := hinv
  refine ⟨fun h => ⟨?_, ?_⟩, fun hlo hhi => ppuRead_ppuWrite_nameTable hvram hlo hhi v b, fun h => ppuRead_ppuWrite_palette hpalette h v b⟩
  · rw [ppuWrite, if_pos h]
  · rw [ppuRead, if_pos h]

end Sys2Proof.Machine
end

section
/-! The dot machine, phase by phase (48 R372): one equation of `renderLine` for each class of dots, the length of a frame (R371, R400,
R533), and the scroll counters (R383 to R387). -/

namespace Sys2Proof.Machine

/-! ### The classes of dots (R372, R375) -/

/-- The work of a dot of the fetch window (R375). -/
def fetchWork (d : Nat) (u : Ppu) : Ppu := pipelineStep d (stepSprites d (shiftBackground u))

theorem inFetchWindow_eq (d : Nat) : inFetchWindow d = decide (fetchDot d) := by
  rw [inFetchWindow, Bool.decide_or, Bool.decide_and, Bool.decide_and]

/-- The first dot of a line clears the units on the pre-render line, and draws on the visible ones (R374, R391). -/
theorem renderLine_first (s : Int) (u : Ppu) :
    renderLine s 1 u = phase (decide (0 ≤ s)) (composePixel s 1) (phase (decide (s = -1)) startPreRender u) := by
  simp [renderLine, phase, inFetchWindow]

theorem renderLine_fetch (s : Int) {d : Nat} (hlo : 2 ≤ d) (hhi : d ≤ 255) (u : Ppu) :
    renderLine s d u = phase (decide (0 ≤ s)) (composePixel s d) (fetchWork d u) := by
  have h1 : d ≠ 1 := by omega
  have h1' : 1 ≤ d := by omega
  have h256 : d ≠ 256 := by omega
  have h256' : d ≤ 256 := by omega
  have h257 : d ≠ 257 := by omega
  have h257' : d ≤ 257 := by omega
  have h338 : d ≠ 338 := by omega
  have h340 : d ≠ 340 := by omega
  have h280 : ¬ 280 ≤ d := by omega
  simp [renderLine, phase, inFetchWindow, fetchWork, hlo, h1, h1', h256, h256', h257, h257', h338, h340, h280]

theorem renderLine_256 (s : Int) (u : Ppu) :
    renderLine s 256 u = phase (decide (0 ≤ s)) (composePixel s 256) (incrementScrollY (fetchWork 256 u)) := by
  simp [renderLine, phase, inFetchWindow, fetchWork]

theorem renderLine_257 (s : Int) (u : Ppu) :
    renderLine s 257 u = evaluateSprites s (transferAddressX (loadBackgroundShifters (fetchWork 257 u))) := by
  simp [renderLine, phase, inFetchWindow, fetchWork]

/-- The dots that fetch the first tiles of the next line (R375). -/
theorem renderLine_prefetch (s : Int) {d : Nat} (hlo : 321 ≤ d) (hhi : d ≤ 337) (u : Ppu) : renderLine s d u = fetchWork d u := by
  have h1 : d ≠ 1 := by omega
  have h256 : d ≠ 256 := by omega
  have h256' : ¬ d ≤ 256 := by omega
  have h257 : d ≠ 257 := by omega
  have h338 : d ≠ 338 := by omega
  have h340 : d ≠ 340 := by omega
  have h304 : ¬ d ≤ 304 := by omega
  simp [renderLine, phase, inFetchWindow, fetchWork, hlo, hhi, h1, h256, h256', h257, h338, h340, h304]

/-- The dots of the vertical transfer (R387). -/
theorem renderLine_transfer (s : Int) {d : Nat} (hlo : 280 ≤ d) (hhi : d ≤ 304) (u : Ppu) :
    renderLine s d u = phase (decide (s = -1)) transferAddressY u := by
  have h1 : d ≠ 1 := by omega
  have h256 : d ≠ 256 := by omega
  have h256' : ¬ d ≤ 256 := by omega
  have h257 : d ≠ 257 := by omega
  have h257' : ¬ d ≤ 257 := by omega
  have h321 : ¬ 321 ≤ d := by omega
  have h338 : d ≠ 338 := by omega
  have h340 : d ≠ 340 := by omega
  simp [renderLine, phase, inFetchWindow, hlo, hhi, h1, h256, h256', h257, h257', h321, h338, h340]

theorem renderLine_338 (s : Int) (u : Ppu) : renderLine s 338 u = fetchTileId u := by
  simp [renderLine, phase, inFetchWindow]

theorem renderLine_340 (s : Int) (u : Ppu) : renderLine s 340 u = fetchSpritePatterns s (fetchTileId u) := by
  simp [renderLine, phase, inFetchWindow]

/-- The dots of a rendering line on which no phase works. -/
abbrev idleDot (d : Nat) : Prop := d = 0 ∨ (258 ≤ d ∧ d ≤ 279) ∨ (305 ≤ d ∧ d ≤ 320) ∨ d = 339 ∨ 341 ≤ d

theorem renderLine_idle (s : Int) {d : Nat} (h : idleDot d) (u : Ppu) : renderLine s d u = u := by
  have h1 : d ≠ 1 := by omega
  have h256 : d ≠ 256 := by omega
  have h257 : d ≠ 257 := by omega
  have h338 : d ≠ 338 := by omega
  have h340 : d ≠ 340 := by omega
  have hwindow : ¬ fetchDot d := by omega
  have htransfer : ¬ (280 ≤ d ∧ d ≤ 304) := by omega
  have hvisible : ¬ (1 ≤ d ∧ d ≤ 256) := by omega
  simp [renderLine, phase, inFetchWindow_eq, hwindow, h1, h256, h257, h338, h340, and_assoc, htransfer, hvisible]

/-- Every dot number is in one of the classes. -/
theorem dot_classes (d : Nat) : d = 1 ∨ (2 ≤ d ∧ d ≤ 255) ∨ d = 256 ∨ d = 257 ∨ (280 ≤ d ∧ d ≤ 304) ∨ (321 ≤ d ∧ d ≤ 337) ∨
    d = 338 ∨ d = 340 ∨ idleDot d := by
  omega

/-! ### From a dot to its work -/

/-- Phase 1 changes the dot number only (R373). -/
theorem skipDotZero_eq (skip : Bool) (u : Ppu) : skipDotZero skip u = { u with dot := dotNumber skip u } := by
  unfold skipDotZero dotNumber
  split <;> rfl

/-- Phase 12 changes the counters and the pictures only (R371, R399). -/
theorem advanceCounters_eq (u : Ppu) : advanceCounters u = { u with
    scanline := (advanceCounters u).scanline
    dot := (advanceCounters u).dot
    frameBuffer := (advanceCounters u).frameBuffer
    completedFrame := (advanceCounters u).completedFrame } := by
  unfold advanceCounters
  split
  · split <;> rfl
  · rfl

/-- The PPU whose dot number is that of the phase table: what phases 2 to 11 start from. -/
def dotStart (skip : Bool) (u : Ppu) : Ppu := { u with dot := dotNumber skip u }

/-- What a dot does, but for the counters and the pictures: the work of its line. -/
theorem dot_eq (skip : Bool) (u : Ppu) :
    dot skip u = advanceCounters (dotWork u.scanline (dotNumber skip u) (dotStart skip u)) := by
  rw [dot, dotBody, skipDotZero_eq]
  rfl

theorem dotWork_of_fetchLine {u : Ppu} (h : fetchLine u) (d : Nat) (w : Ppu) : dotWork u.scanline d w = renderLine u.scanline d w :=
  if_pos h

/-- Off the rendering lines only the flag and the request of the vertical blank can change (R397, R398). -/
theorem dotWork_of_not_fetchLine {u : Ppu} (h : ¬ fetchLine u) (d : Nat) (w : Ppu) :
    ∃ b n, dotWork u.scanline d w = { w with verticalBlank := b, nmiPending := n } := by
  rw [dotWork, if_neg h]
  cases decide (u.scanline = 241) && decide (d = 1)
  · exact ⟨_, _, rfl⟩
  · exact ⟨_, _, rfl⟩

/-- Drawing changes the picture and the three sprite-zero bits only (R391 to R396). -/
theorem phase_composePixel_eq (c : Bool) (s : Int) (d : Nat) (u : Ppu) :
    ∃ r z h f, phase c (composePixel s d) u = { u with
      spriteZeroRendered := r, spriteZeroChosen := z, spriteZeroHit := h, frameBuffer := f } := by
  cases c
  · exact ⟨_, _, _, _, rfl⟩
  · exact ⟨_, _, _, _, rfl⟩

/-! ### The length of a frame (R371, R373, R399, R400, R533) -/

/-- A dot reports the frame at `(241, 1)` with the NMI enabled and at the last dot of the frame; the dot-0 skip makes no difference. -/
theorem dotReports_eq (skip : Bool) (u : Ppu) :
    dotReports skip u = ((decide (u.scanline = 241 ∧ u.dot = 1) && u.control.getLsbD 7) || decide (340 ≤ u.dot ∧ 260 ≤ u.scanline)) := by
  have hposition : ∀ w : Ppu, (vblankReports w.scanline w.dot w || endsFrame w)
      = ((decide (w.scanline = 241 ∧ w.dot = 1) && w.control.getLsbD 7) || decide (340 ≤ w.dot ∧ 260 ≤ w.scanline)) := fun w => by
    have hdot : 341 ≤ w.dot + 1 ↔ 340 ≤ w.dot := by omega
    have hline : 261 ≤ w.scanline + 1 ↔ 260 ≤ w.scanline := by omega
    rw [vblankReports, endsFrame, Bool.decide_and, Bool.decide_and, decide_eq_decide.2 hdot, decide_eq_decide.2 hline]
    rfl
  rw [dotReports]
  by_cases hskip : skip = true ∧ u.scanline = 0 ∧ u.dot = 0
  · rw [hposition, skipDotZero, if_pos hskip]
    obtain ⟨-, hline, hdot⟩ := hskip
    simp [hline, hdot]
  · rw [hposition, skipDotZero, if_neg hskip]

theorem ppuTick_succ (skip : Bool) : ∀ (n : Nat) (u : Ppu), ppuTick skip (n + 1) u = dot skip (ppuTick skip n u)
  | 0, _ => rfl
  | n + 1, u => ppuTick_succ skip n (dot skip u)

theorem ppuTick_control (skip : Bool) : ∀ (n : Nat) (u : Ppu), (ppuTick skip n u).control = u.control
  | 0, _ => rfl
  | n + 1, u => (ppuTick_control skip n (dot skip u)).trans (dot_keeps skip u).1.1

/-- No dot of a tick reports, exactly if none does. -/
theorem ppuTickReports_eq_false (skip : Bool) : ∀ (n : Nat) (u : Ppu),
    (∀ k < n, dotReports skip (ppuTick skip k u) = false) → ppuTickReports skip n u = false
  | 0, _, _ => rfl
  | n + 1, u, h => by
    have hfirst : dotReports skip u = false := h 0 (by omega)
    rw [ppuTickReports, hfirst, Bool.false_or]
    exact ppuTickReports_eq_false skip n (dot skip u) fun k hk => h (k + 1) (by omega)

/-- The dots of a frame from `(-1, 0)` on, in raster order: 262 lines of 341. -/
def rasterPosition (k : Nat) : Int × Nat := ((k / 341 : Nat) - 1, k % 341)

/-- The raster number of the position after `n` dots from `(-1, 0)`: the skip jumps over number 342, the dot at `(0, 1)`. -/
def rasterNumber (skip : Bool) (n : Nat) : Nat := if skip = true ∧ 341 < n then n + 1 else n

theorem rasterNumber_lt (skip : Bool) {m n : Nat} (h : m < n) : rasterNumber skip m < rasterNumber skip n := by
  cases skip with
  | false => exact h
  | true =>
    simp only [rasterNumber, true_and]
    split <;> split <;> omega

/-- The number after the next one is skipped at number 341 only. -/
theorem rasterNumber_succ (skip : Bool) {n : Nat} (h : ¬ (skip = true ∧ rasterNumber skip n = 341)) :
    rasterNumber skip (n + 1) = rasterNumber skip n + 1 := by
  cases skip with
  | false => rfl
  | true =>
    simp only [rasterNumber, true_and] at h ⊢
    split at h <;> split <;> omega

theorem rasterNumber_eq_341 {n : Nat} (h : rasterNumber true n = 341) : n = 341 := by
  simp only [rasterNumber, true_and] at h
  split at h <;> omega

theorem nextPosition_rasterPosition (skip : Bool) {n : Nat} (h : rasterNumber skip n < 89342) :
    nextPosition skip (rasterPosition (rasterNumber skip n))
      = if rasterNumber skip n = 89341 then (-1, 0) else rasterPosition (rasterNumber skip (n + 1)) := by
  have hdiv : rasterNumber skip n / 341 * 341 + rasterNumber skip n % 341 = rasterNumber skip n := Nat.div_add_mod' _ _
  unfold nextPosition rasterPosition
  dsimp only
  by_cases hskip : skip = true ∧ ((rasterNumber skip n / 341 : Nat) : Int) - 1 = 0 ∧ rasterNumber skip n % 341 = 0
  · obtain ⟨rfl, hline, hdot⟩ := hskip
    obtain rfl := rasterNumber_eq_341 (n := n) (by omega)
    rfl
  · have hne : ¬ (skip = true ∧ rasterNumber skip n = 341) := fun ⟨hs, hn⟩ => hskip ⟨hs, by omega, by omega⟩
    have hnext := rasterNumber_succ skip hne
    rw [if_neg hskip, hnext]
    generalize rasterNumber skip n = k at *
    by_cases hend : k = 89341
    · subst hend
      rfl
    · rw [if_neg hend]
      by_cases hdot : 341 ≤ k % 341 + 1
      · have hline : ¬ 261 ≤ ((k / 341 : Nat) : Int) - 1 + 1 := by omega
        rw [if_pos hdot, if_neg hline]
        refine Prod.ext ?_ ?_ <;> dsimp only <;> omega
      · rw [if_neg hdot]
        refine Prod.ext ?_ ?_ <;> dsimp only <;> omega

/-- Where the PPU is after `n` dots from `(-1, 0)`, up to the end of the frame. -/
theorem ppuTick_position (skip : Bool) {u : Ppu} (hs : u.scanline = -1) (hd : u.dot = 0) :
    ∀ n, rasterNumber skip n < 89342 →
      ((ppuTick skip n u).scanline, (ppuTick skip n u).dot) = rasterPosition (rasterNumber skip n)
  | 0, _ => by
    rw [ppuTick, hs, hd]
    cases skip <;> rfl
  | n + 1, h => by
    have hmono : rasterNumber skip n < rasterNumber skip (n + 1) := rasterNumber_lt skip n.lt_succ_self
    have hlt : rasterNumber skip n < 89342 := by omega
    rw [ppuTick_succ, dot_position, ppuTick_position skip hs hd n hlt, nextPosition_rasterPosition skip hlt, if_neg (by omega)]

/-- The dot after the last of the frame is its first. -/
theorem ppuTick_frame (skip : Bool) {u : Ppu} (hs : u.scanline = -1) (hd : u.dot = 0) {n : Nat} (h : rasterNumber skip n = 89341) :
    (ppuTick skip (n + 1) u).scanline = -1 ∧ (ppuTick skip (n + 1) u).dot = 0 := by
  have hlt : rasterNumber skip n < 89342 := by omega
  have hnext := dot_position skip (ppuTick skip n u)
  rw [ppuTick_position skip hs hd n hlt, nextPosition_rasterPosition skip hlt, if_pos h, ← ppuTick_succ] at hnext
  exact Prod.mk.inj hnext

/-- The reports of a frame, by the raster number of the dot: `(241, 1)` is number 82523, the last dot number 89341. -/
theorem dotReports_ppuTick (skip : Bool) {u : Ppu} (hs : u.scanline = -1) (hd : u.dot = 0) {n : Nat}
    (h : rasterNumber skip n < 89342) :
    dotReports skip (ppuTick skip n u)
      = ((decide (rasterNumber skip n = 82523) && u.control.getLsbD 7) || decide (rasterNumber skip n = 89341)) := by
  obtain ⟨hline, hdot⟩ := Prod.mk.inj (ppuTick_position skip hs hd n h)
  have hvblank : ((ppuTick skip n u).scanline = 241 ∧ (ppuTick skip n u).dot = 1) ↔ rasterNumber skip n = 82523 := by
    rw [hline, hdot]
    omega
  have hend : (340 ≤ (ppuTick skip n u).dot ∧ 260 ≤ (ppuTick skip n u).scanline) ↔ rasterNumber skip n = 89341 := by
    rw [hline, hdot]
    omega
  rw [dotReports_eq, decide_eq_decide.2 hvblank, decide_eq_decide.2 hend, ppuTick_control]

/-- The first report of a frame is at the dot that is the first to satisfy the condition of `dotReports_ppuTick`. -/
theorem firstReport (skip : Bool) {u : Ppu} (hs : u.scanline = -1) (hd : u.dot = 0) {n : Nat} (hlast : rasterNumber skip n ≤ 89341)
    (hreports : (rasterNumber skip n = 82523 ∧ u.control.getLsbD 7 = true) ∨ (rasterNumber skip n = 89341 ∧ u.control.getLsbD 7 = false)) :
    ppuTickReports skip n u = false ∧ dotReports skip (ppuTick skip n u) = true := by
  refine ⟨ppuTickReports_eq_false skip n u fun k hk => ?_, ?_⟩
  · have hmono := rasterNumber_lt skip hk
    rw [dotReports_ppuTick skip hs hd (by omega)]
    have hend : rasterNumber skip k ≠ 89341 := by omega
    rcases hreports with ⟨hn, -⟩ | ⟨-, hc⟩
    · have hvblank : rasterNumber skip k ≠ 82523 := by omega
      rw [decide_eq_false hvblank, decide_eq_false hend]
      rfl
    · rw [hc, decide_eq_false hend, Bool.and_false]
      rfl
  · rw [dotReports_ppuTick skip hs hd (by omega)]
    rcases hreports with ⟨hn, hc⟩ | ⟨hn, -⟩
    · rw [decide_eq_true hn, hc]
      rfl
    · rw [decide_eq_true hn, Bool.or_true]

/-- Settles O46: raster numbers 89341 and 82523 are reached after 89340 and 82522 dots with the skip, and one more without. -/
theorem frameLength : Obligations.FrameLength := by
  intro u hs hd
  have hskipEnd : rasterNumber true 89340 = 89341 := rfl
  have hend : rasterNumber false 89341 = 89341 := rfl
  have hskipVblank : rasterNumber true 82522 = 82523 := rfl
  have hvblank : rasterNumber false 82523 = 82523 := rfl
  refine ⟨ppuTick_frame true hs hd hskipEnd, ppuTick_frame false hs hd hend, fun hc => ?_, fun hc => ?_⟩
  · obtain ⟨h1, h2⟩ := firstReport true hs hd hskipEnd.le (.inr ⟨hskipEnd, hc⟩)
    obtain ⟨h3, h4⟩ := firstReport false hs hd hend.le (.inr ⟨hend, hc⟩)
    exact ⟨h1, h2, h3, h4⟩
  · obtain ⟨h1, h2⟩ := firstReport true hs hd (by rw [hskipVblank]; decide) (.inl ⟨hskipVblank, hc⟩)
    obtain ⟨h3, h4⟩ := firstReport false hs hd (by rw [hvblank]; decide) (.inl ⟨hvblank, hc⟩)
    exact ⟨h1, h2, h3, h4⟩

end Sys2Proof.Machine
end

section
/-! The scroll counters of the dot machine (48 R383 to R387, R402). -/

namespace Sys2Proof.Machine

/-! ### Increments and transfers, field by field -/

theorem incrementScrollX_vramAddr (u : Ppu) :
    (incrementScrollX u).vramAddr = if u.rendering = true then nextColumn u.vramAddr else u.vramAddr := by
  unfold incrementScrollX
  split <;> rfl

theorem incrementScrollY_vramAddr (u : Ppu) :
    (incrementScrollY u).vramAddr = if u.rendering = true then nextRow u.vramAddr else u.vramAddr := by
  unfold incrementScrollY
  split <;> rfl

theorem incrementScrollX_eq (u : Ppu) : incrementScrollX u = { u with vramAddr := (incrementScrollX u).vramAddr } := by
  unfold incrementScrollX
  split <;> rfl

theorem incrementScrollY_eq (u : Ppu) : incrementScrollY u = { u with vramAddr := (incrementScrollY u).vramAddr } := by
  unfold incrementScrollY
  split <;> rfl

theorem transferAddressX_eq (u : Ppu) : transferAddressX u = { u with vramAddr := (transferAddressX u).vramAddr } := by
  unfold transferAddressX
  split <;> rfl

theorem transferAddressY_eq (u : Ppu) : transferAddressY u = { u with vramAddr := (transferAddressY u).vramAddr } := by
  unfold transferAddressY
  split <;> rfl

/-- With rendering off the four leave the PPU as it is (R383 to R385, R387). -/
theorem scroll_of_not_rendering {u : Ppu} (h : u.rendering = false) :
    incrementScrollX u = u ∧ incrementScrollY u = u ∧ transferAddressX u = u ∧ transferAddressY u = u := by
  have hne : ¬ u.rendering = true := by rw [h]; decide
  exact ⟨if_neg hne, if_neg hne, if_neg hne, if_neg hne⟩

/-- The horizontal increment (R383). -/
theorem nextColumn_fields (v : Loopy) :
    (nextColumn v).coarseX.toNat = (v.coarseX.toNat + 1) % 32 ∧
    (nextColumn v).nametableX = (if v.coarseX.toNat = 31 then 1 - v.nametableX else v.nametableX) ∧
    (nextColumn v).coarseY = v.coarseY ∧ (nextColumn v).nametableY = v.nametableY ∧ (nextColumn v).fineY = v.fineY := by
  have hlast : v.coarseX = 31 ↔ v.coarseX.toNat = 31 := BitVec.toNat_inj.symm
  by_cases h : v.coarseX.toNat = 31
  · rw [nextColumn, if_pos (hlast.2 h), if_pos h]
    refine ⟨?_, ?_, ?_, ?_, ?_⟩ <;> simp [h]
  · rw [nextColumn, if_neg (mt hlast.1 h), if_neg h]
    refine ⟨?_, ?_, ?_, ?_, ?_⟩ <;> simp

/-- The vertical increment (R384). -/
theorem nextRow_fields (v : Loopy) :
    (nextRow v).fineY.toNat = (v.fineY.toNat + 1) % 8 ∧
    (nextRow v).coarseY.toNat = (if v.fineY.toNat < 7 then v.coarseY.toNat else if v.coarseY.toNat = 29 then 0
      else (v.coarseY.toNat + 1) % 32) ∧
    (nextRow v).nametableY = (if v.fineY.toNat = 7 ∧ v.coarseY.toNat = 29 then 1 - v.nametableY else v.nametableY) ∧
    (nextRow v).coarseX = v.coarseX ∧ (nextRow v).nametableX = v.nametableX := by
  have hfine : v.fineY < 7 ↔ v.fineY.toNat < 7 := BitVec.lt_def
  have h29 : v.coarseY = 29 ↔ v.coarseY.toNat = 29 := BitVec.toNat_inj.symm
  have h31 : v.coarseY = 31 ↔ v.coarseY.toNat = 31 := BitVec.toNat_inj.symm
  have hlt := v.fineY.isLt
  by_cases hf : v.fineY.toNat < 7
  · have hne : v.fineY.toNat ≠ 7 := by omega
    rw [nextRow, if_pos (hfine.2 hf)]
    refine ⟨?_, ?_, ?_, ?_, ?_⟩ <;> simp [hf, hne]
  · have h7 : v.fineY.toNat = 7 := by omega
    rw [nextRow, if_neg (mt hfine.1 hf)]
    by_cases hc29 : v.coarseY.toNat = 29
    · rw [if_pos (h29.2 hc29)]
      refine ⟨?_, ?_, ?_, ?_, ?_⟩ <;> simp [h7, hc29]
    · rw [if_neg (mt h29.1 hc29)]
      by_cases hc31 : v.coarseY.toNat = 31
      · rw [if_pos (h31.2 hc31)]
        refine ⟨?_, ?_, ?_, ?_, ?_⟩ <;> simp [h7, hc31]
      · rw [if_neg (mt h31.1 hc31)]
        refine ⟨?_, ?_, ?_, ?_, ?_⟩ <;> simp [h7, hc29]

/-- The two transfers (R385, R387). -/
theorem transfer_fields {u : Ppu} (h : u.rendering = true) :
    ((transferAddressX u).vramAddr.coarseX = u.tramAddr.coarseX ∧ (transferAddressX u).vramAddr.nametableX = u.tramAddr.nametableX ∧
      (transferAddressX u).vramAddr.coarseY = u.vramAddr.coarseY ∧ (transferAddressX u).vramAddr.nametableY = u.vramAddr.nametableY ∧
      (transferAddressX u).vramAddr.fineY = u.vramAddr.fineY) ∧
    ((transferAddressY u).vramAddr.coarseY = u.tramAddr.coarseY ∧ (transferAddressY u).vramAddr.nametableY = u.tramAddr.nametableY ∧
      (transferAddressY u).vramAddr.fineY = u.tramAddr.fineY ∧ (transferAddressY u).vramAddr.coarseX = u.vramAddr.coarseX ∧
      (transferAddressY u).vramAddr.nametableX = u.vramAddr.nametableX) := by
  rw [transferAddressX, if_pos h, transferAddressY, if_pos h]
  simp

/-! ### The dots that move the pointer (R372, R375) -/

/-- Two PPUs in which the scroll steps do the same. -/
abbrev SameScroll (u w : Ppu) : Prop := w.mask = u.mask ∧ w.tramAddr = u.tramAddr ∧ w.vramAddr = u.vramAddr

theorem SameScroll.trans {u w x : Ppu} (h : SameScroll u w) (h' : SameScroll w x) : SameScroll u x :=
  ⟨h'.1.trans h.1, h'.2.1.trans h.2.1, h'.2.2.trans h.2.2⟩

theorem SameScroll.rendering {u w : Ppu} (h : SameScroll u w) : w.rendering = u.rendering := by
  unfold Ppu.rendering Ppu.renderBackground Ppu.renderSprites
  rw [h.1]

theorem SameScroll.incrementScrollX {u w : Ppu} (h : SameScroll u w) : SameScroll (incrementScrollX u) (incrementScrollX w) := by
  have hr := h.rendering
  rw [incrementScrollX_eq u, incrementScrollX_eq w]
  refine ⟨h.1, h.2.1, ?_⟩
  rw [incrementScrollX_vramAddr, incrementScrollX_vramAddr, hr, h.2.2]

theorem SameScroll.incrementScrollY {u w : Ppu} (h : SameScroll u w) : SameScroll (incrementScrollY u) (incrementScrollY w) := by
  have hr := h.rendering
  rw [incrementScrollY_eq u, incrementScrollY_eq w]
  refine ⟨h.1, h.2.1, ?_⟩
  rw [incrementScrollY_vramAddr, incrementScrollY_vramAddr, hr, h.2.2]

theorem SameScroll.transferAddressX {u w : Ppu} (h : SameScroll u w) : SameScroll (transferAddressX u) (transferAddressX w) := by
  have hr := h.rendering
  obtain ⟨hm, ht, hv⟩ := h
  unfold Machine.transferAddressX
  rw [hr]
  split
  · exact ⟨hm, ht, by dsimp only; rw [ht, hv]⟩
  · exact ⟨hm, ht, hv⟩

theorem shiftBackground_scroll (u : Ppu) : SameScroll u (shiftBackground u) := by
  unfold shiftBackground
  split <;> exact ⟨rfl, rfl, rfl⟩

theorem stepSprites_scroll (d : Nat) (u : Ppu) : SameScroll u (stepSprites d u) := by
  unfold stepSprites
  split <;> exact ⟨rfl, rfl, rfl⟩

/-- In the fetch window the pointer moves at the multiples of 8 only (R375). -/
theorem pipelineStep_scroll (d : Nat) (hd : 2 ≤ d) (u : Ppu) :
    SameScroll (if d % 8 = 0 then incrementScrollX u else u) (pipelineStep d u) := by
  by_cases h8 : d % 8 = 0
  · have h7 : (d - 1) % 8 = 7 := by omega
    rw [if_pos h8, pipelineStep, h7]
    exact ⟨rfl, rfl, rfl⟩
  · rw [if_neg h8]
    unfold pipelineStep
    split
    case h_5 h7 => omega
    all_goals exact ⟨rfl, rfl, rfl⟩

theorem fetchWork_scroll (d : Nat) (hd : 2 ≤ d) (u : Ppu) : SameScroll (if d % 8 = 0 then incrementScrollX u else u) (fetchWork d u) := by
  have hbefore := (shiftBackground_scroll u).trans (stepSprites_scroll d _)
  refine SameScroll.trans ?_ (pipelineStep_scroll d hd _)
  split
  · exact hbefore.incrementScrollX
  · exact hbefore

theorem fetchWork_vramAddr (d : Nat) (hd : 2 ≤ d) (u : Ppu) :
    (fetchWork d u).vramAddr = if d % 8 = 0 then (incrementScrollX u).vramAddr else u.vramAddr := by
  obtain ⟨-, -, h⟩ := fetchWork_scroll d hd u
  rw [h]
  split <;> rfl

theorem phase_composePixel_vramAddr (c : Bool) (s : Int) (d : Nat) (u : Ppu) : (phase c (composePixel s d) u).vramAddr = u.vramAddr := by
  cases c <;> rfl

/-- The pointer that the dots of a rendering line leave. -/
theorem renderLine_vramAddr (s : Int) (d : Nat) (u : Ppu) :
    (renderLine s d u).vramAddr =
      if d = 256 then (incrementScrollY (incrementScrollX u)).vramAddr
      else if d = 257 then (transferAddressX u).vramAddr
      else if fetchDot d ∧ d % 8 = 0 then (incrementScrollX u).vramAddr
      else if s = -1 ∧ 280 ≤ d ∧ d ≤ 304 then (transferAddressY u).vramAddr
      else u.vramAddr := by
  rcases dot_classes d with rfl | ⟨hlo, hhi⟩ | rfl | rfl | ⟨hlo, hhi⟩ | ⟨hlo, hhi⟩ | rfl | rfl | hidle
  · rw [renderLine_first, phase_composePixel_vramAddr, if_neg (by decide), if_neg (by decide), if_neg (by decide), if_neg (by omega)]
    cases decide (s = -1) <;> rfl
  · have hwindow : fetchDot d := Or.inl ⟨hlo, by omega⟩
    rw [renderLine_fetch s hlo hhi, phase_composePixel_vramAddr, fetchWork_vramAddr d hlo, if_neg (c := d = 256) (by omega),
      if_neg (c := d = 257) (by omega),
      if_neg (c := s = -1 ∧ 280 ≤ d ∧ d ≤ 304) (by omega)]
    simp only [hwindow, true_and]
  · obtain ⟨-, -, hscroll⟩ := (fetchWork_scroll 256 (by decide) u).incrementScrollY
    rw [renderLine_256, phase_composePixel_vramAddr, hscroll, if_pos rfl, if_pos rfl]
  · have hreload : SameScroll u (loadBackgroundShifters (fetchWork 257 u)) := fetchWork_scroll 257 (by decide) u
    obtain ⟨-, -, hscroll⟩ := hreload.transferAddressX
    rw [renderLine_257, if_neg (by decide), if_pos rfl]
    exact hscroll
  · rw [renderLine_transfer s hlo hhi, if_neg (by omega), if_neg (by omega), if_neg (by omega)]
    by_cases hs : s = -1
    · rw [if_pos ⟨hs, hlo, hhi⟩, decide_eq_true hs]
      rfl
    · rw [if_neg (fun h => hs h.1), decide_eq_false hs]
      rfl
  · have hwindow : fetchDot d := Or.inr ⟨hlo, hhi⟩
    rw [renderLine_prefetch s hlo hhi, fetchWork_vramAddr d (by omega), if_neg (c := d = 256) (by omega),
      if_neg (c := d = 257) (by omega),
      if_neg (c := s = -1 ∧ 280 ≤ d ∧ d ≤ 304) (by omega)]
    simp only [hwindow, true_and]
  · rw [renderLine_338, if_neg (by decide), if_neg (by decide), if_neg (by decide), if_neg (by omega)]
    rfl
  · rw [renderLine_340, if_neg (by decide), if_neg (by decide), if_neg (by decide), if_neg (by omega)]
    rfl
  · rw [renderLine_idle s hidle, if_neg (by omega), if_neg (by omega), if_neg (by omega), if_neg (by omega)]

/-- The pointer after a dot (R372, R375, R402). -/
theorem dot_vramAddr (skip : Bool) (u : Ppu) :
    (dot skip u).vramAddr =
      if ¬ fetchLine u then u.vramAddr
      else if dotNumber skip u = 256 then (incrementScrollY (incrementScrollX u)).vramAddr
      else if dotNumber skip u = 257 then (transferAddressX u).vramAddr
      else if fetchDot (dotNumber skip u) ∧ dotNumber skip u % 8 = 0 then (incrementScrollX u).vramAddr
      else if u.scanline = -1 ∧ 280 ≤ dotNumber skip u ∧ dotNumber skip u ≤ 304 then (transferAddressY u).vramAddr
      else u.vramAddr := by
  have hstart : SameScroll u (dotStart skip u) := ⟨rfl, rfl, rfl⟩
  have htransferY : (transferAddressY (dotStart skip u)).vramAddr = (transferAddressY u).vramAddr := by
    unfold transferAddressY
    rw [hstart.rendering]
    split <;> rfl
  rw [dot_eq, advanceCounters_eq]
  by_cases hline : fetchLine u
  · rw [if_neg (not_not_intro hline)]
    show (dotWork u.scanline (dotNumber skip u) (dotStart skip u)).vramAddr = _
    rw [dotWork_of_fetchLine hline, renderLine_vramAddr, hstart.incrementScrollX.2.2, hstart.incrementScrollX.incrementScrollY.2.2,
      hstart.transferAddressX.2.2, htransferY]
    rfl
  · obtain ⟨b, n, hwork⟩ := dotWork_of_not_fetchLine hline (dotNumber skip u) (dotStart skip u)
    rw [if_pos hline, hwork]
    rfl

/-- Settles O49: the fields of the four steps, and `dot_vramAddr`. -/
theorem scrollCounters : Obligations.ScrollCounters := by
  intro u
  refine ⟨scroll_of_not_rendering, fun hr => ?_,
    ⟨incrementScrollX_eq u, incrementScrollY_eq u, transferAddressX_eq u, transferAddressY_eq u⟩, fun skip => dot_vramAddr skip u⟩
  obtain ⟨htx, hty⟩ := transfer_fields hr
  refine ⟨?_, ?_, htx, hty⟩
  · rw [incrementScrollX_vramAddr, if_pos hr]
    exact nextColumn_fields u.vramAddr
  · rw [incrementScrollY_vramAddr, if_pos hr]
    exact nextRow_fields u.vramAddr

/-- With rendering off no dot moves the pointer. -/
theorem dot_vramAddr_of_not_rendering (skip : Bool) {u : Ppu} (h : u.rendering = false) : (dot skip u).vramAddr = u.vramAddr := by
  obtain ⟨hx, hy, htx, hty⟩ := scroll_of_not_rendering h
  rw [dot_vramAddr, hx, hy, htx, hty]
  simp only [ite_self]

/-- Settles O48: `dot_keeps` for the port and the memories, `dot_vramAddr` for the pointer. -/
theorem dotKeepsPortAndMemory : Obligations.DotKeepsPortAndMemory := by
  intro u skip
  obtain ⟨⟨hcontrol, hmask, hoamAddr, htram, hfine, htoggle, hbuffer⟩, hchr, hvram, hpalette, hoam, hmirroring⟩ := dot_keeps skip u
  refine ⟨hchr, hvram, hpalette, hoam, hmirroring, hoamAddr, hcontrol, hmask, htram, hfine, htoggle, hbuffer, fun h => ?_⟩
  rcases h with ⟨hbg, hsprites⟩ | h
  · refine dot_vramAddr_of_not_rendering skip ?_
    rw [Ppu.rendering, Ppu.renderBackground, Ppu.renderSprites, hbg, hsprites]
    rfl
  · rw [dot_vramAddr, if_pos (by omega)]

end Sys2Proof.Machine
end

section
/-! The background pipeline of one dot (48 R375 to R382, R386): addresses and shifters as numbers, the work of a dot of the fetch window,
and the dots that do none. -/

namespace Sys2Proof.Machine

/-! ### Shifters as numbers (R376, R377) -/

/-- The low byte of a shifter replaced (R377). -/
theorem loadLow_toNat (r : BitVec 16) (v : Byte) : (loadLow r v).toNat = r.toNat / 256 * 256 + v.toNat := by
  have happend : loadLow r v = r.extractLsb' 8 8 ++ v := by
    have hmask : ∀ i < 16, (0xFF00#16).getLsbD i = decide (8 ≤ i) := by decide
    refine BitVec.eq_of_getLsbD_eq fun i hi => ?_
    rw [loadLow, BitVec.getLsbD_or, BitVec.getLsbD_and, hmask i hi, BitVec.getLsbD_setWidth, BitVec.getLsbD_append]
    by_cases h8 : i < 8
    · simp [h8, hi]
    · have hle : 8 ≤ i := by omega
      have hsub : i - 8 < 8 := by omega
      simp [h8, hle, hsub]
  have hlt := r.isLt
  have hv := v.isLt
  rw [happend, BitVec.toNat_append, ← Nat.shiftLeft_add_eq_or_of_lt hv, Nat.shiftLeft_eq, BitVec.extractLsb'_toNat,
    Nat.shiftRight_eq_div_pow]
  omega

/-- Loading one byte twice is loading it once. -/
theorem loadLow_loadLow (r : BitVec 16) (v : Byte) : loadLow (loadLow r v) v = loadLow r v := by
  apply BitVec.eq_of_toNat_eq
  have hv := v.isLt
  rw [loadLow_toNat, loadLow_toNat]
  omega

/-- A background shifter after `ShiftBackground()` (R376). -/
def shiftedRegister (u : Ppu) (r : BitVec 16) : BitVec 16 := if u.renderBackground = true then r <<< 1 else r

theorem shiftedRegister_toNat (u : Ppu) (r : BitVec 16) :
    (shiftedRegister u r).toNat = if u.mask.getLsbD 3 = true then 2 * r.toNat % 0x10000 else r.toNat := by
  unfold shiftedRegister Ppu.renderBackground
  split
  · rw [BitVec.toNat_shiftLeft, Nat.shiftLeft_eq, Nat.mul_comm]
  · rfl

/-! ### Addresses as numbers (R379 to R382) -/

theorem tileAddr_eq (v : Loopy) : tileAddr v = BitVec.ofNat 14 (0x2000 + v.toNat % 0x1000) := by
  have hlow : (v &&& 0x0FFF#15).toNat = v.toNat % 0x1000 := by
    rw [BitVec.toNat_and]
    exact Nat.and_two_pow_sub_one_eq_mod v.toNat 12
  have hlt : v.toNat % 0x1000 < 2 ^ 13 := by omega
  have hmod : v.toNat % 0x1000 % 2 ^ 14 = v.toNat % 0x1000 := by omega
  have hor : 0x2000 ||| v.toNat % 0x1000 = 0x2000 + v.toNat % 0x1000 := (Nat.shiftLeft_add_eq_or_of_lt hlt 1).symm
  apply BitVec.eq_of_toNat_eq
  rw [tileAddr, BitVec.toNat_or, BitVec.toNat_setWidth, hlow, hmod, BitVec.toNat_ofNat, BitVec.toNat_ofNat]
  exact hor.trans (by omega)

/-- The fields of the attribute address stand side by side. -/
theorem attribFields_toNat : ∀ (y x : BitVec 1) (r c : BitVec 3),
    (0x23C0#14 ||| (y.setWidth 14 <<< 11) ||| (x.setWidth 14 <<< 10) ||| (r.setWidth 14 <<< 3) ||| c.setWidth 14).toNat
      = 0x23C0 + 0x800 * y.toNat + 0x400 * x.toNat + 8 * r.toNat + c.toNat := by
  decide

/-- A coarse scroll counts tiles; its upper three bits count the squares of four by four (R380). -/
theorem coarse_square : ∀ c : BitVec 5, (c >>> 2).setWidth 14 = ((c >>> 2).setWidth 3).setWidth 14 ∧
    ((c >>> 2).setWidth 3).toNat = c.toNat / 4 := by
  decide

theorem attribAddr_eq (v : Loopy) : attribAddr v = BitVec.ofNat 14 (0x23C0 + 0x800 * v.nametableY.toNat + 0x400 * v.nametableX.toNat
    + 8 * (v.coarseY.toNat / 4) + v.coarseX.toNat / 4) := by
  obtain ⟨hrow, hrowNat⟩ := coarse_square v.coarseY
  obtain ⟨hcol, hcolNat⟩ := coarse_square v.coarseX
  apply BitVec.eq_of_toNat_eq
  rw [attribAddr, hrow, hcol, attribFields_toNat, hrowNat, hcolNat, BitVec.toNat_ofNat, Nat.mod_eq_of_lt]
  have hy := v.nametableY.isLt
  have hx := v.nametableX.isLt
  have hr := v.coarseY.isLt
  have hc := v.coarseX.isLt
  omega

/-- The two bits of the quadrant (R380). -/
theorem attribBits_toNat (v : Loopy) (b : Byte) :
    (attribBits v b).toNat = b.toNat / 2 ^ (4 * (v.coarseY.toNat / 2 % 2) + 2 * (v.coarseX.toNat / 2 % 2)) % 4 := by
  have hrow := bit_toNat v.coarseY 1
  have hcol := bit_toNat v.coarseX 1
  rw [Nat.pow_one] at hrow hcol
  rw [attribBits, ← hrow, ← hcol, BitVec.extractLsb'_toNat, Nat.shiftRight_zero]
  cases v.coarseY.getLsbD 1 <;> cases v.coarseX.getLsbD 1 <;>
    simp [Nat.shiftRight_eq_div_pow]

theorem patternAddr_eq (u : Ppu) : patternAddr u =
    BitVec.ofNat 14 ((if u.control.getLsbD 4 then 0x1000 else 0) + 16 * u.bgNextTileId.toNat + u.vramAddr.fineY.toNat) := by
  have hid := u.bgNextTileId.isLt
  have hfine := u.vramAddr.fineY.isLt
  apply BitVec.eq_of_toNat_eq
  have hbase : (if u.patternBackground = true then 0x1000#14 else 0).toNat = if u.control.getLsbD 4 = true then 0x1000 else 0 := by
    unfold Ppu.patternBackground
    split <;> rfl
  rw [patternAddr, BitVec.toNat_add, BitVec.toNat_add, BitVec.toNat_shiftLeft, BitVec.toNat_setWidth, BitVec.toNat_setWidth,
    BitVec.toNat_ofNat, Nat.shiftLeft_eq, hbase]
  split <;> omega

theorem patternAddr_high (u : Ppu) : patternAddr u + 8 =
    BitVec.ofNat 14 ((if u.control.getLsbD 4 then 0x1000 else 0) + 16 * u.bgNextTileId.toNat + u.vramAddr.fineY.toNat + 8) := by
  rw [patternAddr_eq]
  exact (BitVec.ofNat_add ..).symm

/-! ### The work of a dot (R375, R386) -/

/-- The latches and shifters of the background. -/
abbrev Ppu.background (u : Ppu) : (Byte × BitVec 2 × Byte × Byte) × (BitVec 16 × BitVec 16 × BitVec 16 × BitVec 16) :=
  ((u.bgNextTileId, u.bgNextTileAttrib, u.bgNextTileLsb, u.bgNextTileMsb),
    (u.bgShifterPatternLo, u.bgShifterPatternHi, u.bgShifterAttribLo, u.bgShifterAttribHi))

theorem shiftBackground_eq (u : Ppu) : shiftBackground u = { u with
    bgShifterPatternLo := shiftedRegister u u.bgShifterPatternLo
    bgShifterPatternHi := shiftedRegister u u.bgShifterPatternHi
    bgShifterAttribLo := shiftedRegister u u.bgShifterAttribLo
    bgShifterAttribHi := shiftedRegister u u.bgShifterAttribHi } := by
  unfold shiftBackground shiftedRegister
  split <;> rfl

theorem stepSprites_eq (d : Nat) (u : Ppu) : stepSprites d u = { u with sprites := (stepSprites d u).sprites } := by
  unfold stepSprites
  split <;> rfl

/-- The step of the pipeline, by the dot number modulo 8 (R375). -/
theorem pipelineStep_eq {d : Nat} (hd : 2 ≤ d) (u : Ppu) :
    pipelineStep d u =
      if d % 8 = 1 then fetchTileId (loadBackgroundShifters u)
      else if d % 8 = 3 then fetchAttrib u
      else if d % 8 = 5 then fetchPatternLow u
      else if d % 8 = 7 then fetchPatternHigh u
      else if d % 8 = 0 then incrementScrollX u
      else u := by
  unfold pipelineStep
  split
  case h_1 h => rw [if_pos (by omega)]
  case h_2 h => rw [if_neg (by omega), if_pos (by omega)]
  case h_3 h => rw [if_neg (by omega), if_neg (by omega), if_pos (by omega)]
  case h_4 h => rw [if_neg (by omega), if_neg (by omega), if_neg (by omega), if_pos (by omega)]
  case h_5 h => rw [if_neg (by omega), if_neg (by omega), if_neg (by omega), if_neg (by omega), if_pos (by omega)]
  case h_6 h0 h2 h4 h6 h7 =>
    have h1 : d % 8 ≠ 1 := fun h => h0 (by omega)
    have h3 : d % 8 ≠ 3 := fun h => h2 (by omega)
    have h5 : d % 8 ≠ 5 := fun h => h4 (by omega)
    have h7' : d % 8 ≠ 7 := fun h => h6 (by omega)
    have h8 : d % 8 ≠ 0 := fun h => h7 (by omega)
    rw [if_neg h1, if_neg h3, if_neg h5, if_neg h7', if_neg h8]

/-- The pattern address of the current tile, as a number (R381). -/
abbrev patternNumber (u : Ppu) : Nat :=
  (if u.control.getLsbD 4 then 0x1000 else 0) + 16 * u.bgNextTileId.toNat + u.vramAddr.fineY.toNat

/-- One shifter after a dot of the fetch window: shifted, and reloaded at 1 modulo 8 (R376, R377). -/
def nextRegister (d : Nat) (u : Ppu) (r : BitVec 16) (low : Byte) : BitVec 16 :=
  if d % 8 = 1 then loadLow (shiftedRegister u r) low else shiftedRegister u r

/-- The background after a dot of the fetch window (R375 to R382). -/
def fetchedBackground (d : Nat) (u : Ppu) : (Byte × BitVec 2 × Byte × Byte) × (BitVec 16 × BitVec 16 × BitVec 16 × BitVec 16) :=
  ((if d % 8 = 1 then ppuRead u (tileAddr u.vramAddr) else u.bgNextTileId,
    if d % 8 = 3 then attribBits u.vramAddr (ppuRead u (attribAddr u.vramAddr)) else u.bgNextTileAttrib,
    if d % 8 = 5 then ppuRead u (patternAddr u) else u.bgNextTileLsb,
    if d % 8 = 7 then ppuRead u (patternAddr u + 8) else u.bgNextTileMsb),
   (nextRegister d u u.bgShifterPatternLo u.bgNextTileLsb,
    nextRegister d u u.bgShifterPatternHi u.bgNextTileMsb,
    nextRegister d u u.bgShifterAttribLo (if u.bgNextTileAttrib.getLsbD 0 then 0xFF else 0x00),
    nextRegister d u u.bgShifterAttribHi (if u.bgNextTileAttrib.getLsbD 1 then 0xFF else 0x00)))

theorem fetchWork_background {d : Nat} (hd : 2 ≤ d) (u : Ppu) : (fetchWork d u).background = fetchedBackground d u := by
  rw [fetchWork, stepSprites_eq, shiftBackground_eq, pipelineStep_eq hd]
  unfold fetchedBackground nextRegister
  by_cases h1 : d % 8 = 1
  · simp only [h1, if_true, if_false, Nat.reduceEqDiff, OfNat.one_ne_ofNat]
    rfl
  · by_cases h3 : d % 8 = 3
    · simp only [h3, if_true, if_false, Nat.reduceEqDiff]
      rfl
    · by_cases h5 : d % 8 = 5
      · simp only [h5, if_true, if_false, Nat.reduceEqDiff]
        rfl
      · by_cases h7 : d % 8 = 7
        · simp only [h7, if_true, if_false, Nat.reduceEqDiff]
          rfl
        · simp only [h1, h3, h5, h7, if_false]
          split
          · rw [incrementScrollX_eq]
          · rfl

/-- A second load of the shifters has no effect (R377). -/
theorem load_load_background (u : Ppu) : (loadBackgroundShifters (fetchTileId (loadBackgroundShifters u))).background =
    (fetchTileId (loadBackgroundShifters u)).background :=
  Prod.ext rfl (Prod.ext (loadLow_loadLow _ _) (Prod.ext (loadLow_loadLow _ _) (Prod.ext (loadLow_loadLow _ _) (loadLow_loadLow _ _))))

/-- The work of dot 257 loads the shifters a second time (R385). -/
theorem reload_background (u : Ppu) : (loadBackgroundShifters (fetchWork 257 u)).background = (fetchWork 257 u).background := by
  rw [fetchWork, pipelineStep_eq (by decide), if_pos (by decide)]
  exact load_load_background _

theorem phase_composePixel_background (c : Bool) (s : Int) (d : Nat) (u : Ppu) :
    (phase c (composePixel s d) u).background = u.background := by
  cases c <;> rfl

/-- The background after the work of a rendering line (R372, R375, R386). -/
theorem renderLine_background (s : Int) (d : Nat) (u : Ppu) :
    (renderLine s d u).background =
      if fetchDot d then fetchedBackground d u else if d = 338 ∨ d = 340 then (fetchTileId u).background else u.background := by
  rcases dot_classes d with rfl | ⟨hlo, hhi⟩ | rfl | rfl | ⟨hlo, hhi⟩ | ⟨hlo, hhi⟩ | rfl | rfl | hidle
  · rw [renderLine_first, phase_composePixel_background, if_neg (by decide), if_neg (by decide)]
    cases decide (s = -1) <;> rfl
  · rw [renderLine_fetch s hlo hhi, phase_composePixel_background, fetchWork_background hlo, if_pos (.inl ⟨hlo, by omega⟩)]
  · rw [renderLine_256, phase_composePixel_background, incrementScrollY_eq, if_pos (by decide), ← fetchWork_background (by decide)]
  · rw [renderLine_257, transferAddressX_eq, if_pos (by decide), ← fetchWork_background (by decide)]
    exact reload_background u
  · rw [renderLine_transfer s hlo hhi, if_neg (by omega), if_neg (by omega)]
    cases decide (s = -1)
    · rfl
    · rw [phase, if_pos rfl, transferAddressY_eq]
  · rw [renderLine_prefetch s hlo hhi, fetchWork_background (by omega), if_pos (.inr ⟨hlo, hhi⟩)]
  · rw [renderLine_338, if_neg (by decide), if_pos (.inl rfl)]
  · rw [renderLine_340, if_neg (by decide), if_pos (.inr rfl)]
    rfl
  · rw [renderLine_idle s hidle, if_neg (by omega), if_neg (by omega)]

/-- The background after a dot. -/
theorem dot_background (skip : Bool) (u : Ppu) :
    (dot skip u).background =
      if fetchLine u ∧ fetchDot (dotNumber skip u) then fetchedBackground (dotNumber skip u) u
      else if fetchLine u ∧ (dotNumber skip u = 338 ∨ dotNumber skip u = 340) then (fetchTileId u).background
      else u.background := by
  rw [dot_eq, advanceCounters_eq]
  by_cases hline : fetchLine u
  · have hyes := eq_true hline
    simp only [hyes, true_and]
    show (dotWork u.scanline (dotNumber skip u) (dotStart skip u)).background = _
    rw [dotWork_of_fetchLine hline, renderLine_background]
    rfl
  · obtain ⟨b, n, hwork⟩ := dotWork_of_not_fetchLine hline (dotNumber skip u) (dotStart skip u)
    simp only [hline, false_and, if_false, hwork]
    rfl

/-- A shifter after a dot, as a number. -/
theorem nextRegister_toNat (d : Nat) (u : Ppu) (r : BitVec 16) (low : Byte) :
    (nextRegister d u r low).toNat =
      if d % 8 = 1 then (if u.mask.getLsbD 3 = true then 2 * r.toNat % 0x10000 else r.toNat) / 256 * 256 + low.toNat
      else if u.mask.getLsbD 3 = true then 2 * r.toNat % 0x10000 else r.toNat := by
  unfold nextRegister
  rw [← shiftedRegister_toNat]
  split
  · exact loadLow_toNat _ _
  · rfl

/-- Settles O50: `dot_background`, with addresses and shifters as numbers. -/
theorem backgroundPipeline : Obligations.BackgroundPipeline := by
  intro u skip
  dsimp only
  have hbackground := dot_background skip u
  have hattribLow : ∀ c : Bool, (if c = true then (0xFF : Byte) else 0x00).toNat = if c = true then 0xFF else 0 := by decide
  by_cases hline : fetchLine u
  · have hyes := eq_true hline
    by_cases hwindow : fetchDot (dotNumber skip u)
    · have h338 : dotNumber skip u ≠ 338 := by omega
      have h340 : dotNumber skip u ≠ 340 := by omega
      rw [if_pos ⟨hline, hwindow⟩] at hbackground
      simp only [Ppu.background, fetchedBackground, Prod.mk.injEq] at hbackground
      obtain ⟨⟨hid, hattrib, hlsb, hmsb⟩, hlo, hhi, halo, hahi⟩ := hbackground
      have hattribNat := congrArg BitVec.toNat hattrib
      rw [apply_ite BitVec.toNat, attribBits_toNat, attribAddr_eq] at hattribNat
      rw [hid, hattribNat, hlsb, hmsb, hlo, hhi, halo, hahi, patternAddr_high, patternAddr_eq]
      simp only [nextRegister_toNat, hyes, hwindow, true_and, h338, h340, or_false, tileAddr_eq, hattribLow, and_self]
    · rw [if_neg fun h => hwindow h.2] at hbackground
      by_cases hid : dotNumber skip u = 338 ∨ dotNumber skip u = 340
      · rw [if_pos ⟨hline, hid⟩] at hbackground
        simp only [Ppu.background, fetchTileId, Prod.mk.injEq] at hbackground
        obtain ⟨⟨h1, h2, h3, h4⟩, h5, h6, h7, h8⟩ := hbackground
        rw [h1, h2, h3, h4, h5, h6, h7, h8]
        simp only [hyes, hwindow, hid, true_and, false_and, false_or, if_true, if_false, tileAddr_eq, and_self]
      · rw [if_neg fun h => hid h.2] at hbackground
        simp only [Ppu.background, Prod.mk.injEq] at hbackground
        obtain ⟨⟨h1, h2, h3, h4⟩, h5, h6, h7, h8⟩ := hbackground
        rw [h1, h2, h3, h4, h5, h6, h7, h8]
        simp only [hwindow, hid, false_and, and_false, false_or, if_false, and_self]
  · rw [if_neg fun h => hline h.1, if_neg fun h => hline h.1] at hbackground
    simp only [Ppu.background, Prod.mk.injEq] at hbackground
    obtain ⟨⟨h1, h2, h3, h4⟩, h5, h6, h7, h8⟩ := hbackground
    rw [h1, h2, h3, h4, h5, h6, h7, h8]
    simp only [hline, false_and, if_false, and_self]

end Sys2Proof.Machine
end

section
/-! The sprites of one dot (48 R374, R378, R388 to R390): evaluation, counters and shifters, and the pattern fetch. -/

namespace Sys2Proof.Machine

/-! ### The units after a dot -/

/-- The sprite units with what the evaluation says of them (R44, R46). -/
abbrev Ppu.staged (u : Ppu) : List SpriteUnit × Nat × Bool × Bool := (u.sprites, u.spriteCount, u.spriteZeroPossible, u.spriteOverflow)

theorem shiftBackground_staged (d : Nat) (u : Ppu) : (stepSprites d (shiftBackground u)).staged = (stepSprites d u).staged := by
  have hsprites : (shiftBackground u).renderSprites = u.renderSprites := by rw [shiftBackground_eq]; rfl
  unfold stepSprites
  rw [hsprites]
  split <;> rw [shiftBackground_eq]

theorem pipelineStep_staged (d : Nat) (u : Ppu) : (pipelineStep d u).staged = u.staged := by
  unfold pipelineStep
  split
  case h_5 => rw [incrementScrollX_eq]
  all_goals rfl

theorem fetchWork_staged (d : Nat) (u : Ppu) : (fetchWork d u).staged = (stepSprites d u).staged := by
  rw [fetchWork, pipelineStep_staged, shiftBackground_staged]

theorem fetchWork_stays (d : Nat) (u : Ppu) : Stays u (fetchWork d u) :=
  (shiftBackground_stays u).trans ((stepSprites_stays d _).trans (pipelineStep_stays d _))

/-- The evaluation looks at OAM and the sprite size only (R388). -/
theorem evaluateSprites_congr {u w : Ppu} (h : Stays u w) (s : Int) : (evaluateSprites s w).staged = (evaluateSprites s u).staged := by
  obtain ⟨⟨hcontrol, -⟩, ⟨-, -, -, hoam, -⟩, -⟩ := h
  have hcovers : spriteCovers w s = spriteCovers u s := by
    have hheight : w.spriteHeight = u.spriteHeight := by
      unfold Ppu.spriteHeight Ppu.tallSprites
      rw [hcontrol]
    funext n
    rw [spriteCovers, spriteCovers, hoam, hheight]
  have hmatching : matchingSprites w s = matchingSprites u s := congrArg (List.filter · (List.range 64)) hcovers
  dsimp only [Ppu.staged, evaluateSprites]
  rw [hmatching, hcovers, hoam]

theorem phase_composePixel_staged (c : Bool) (s : Int) (d : Nat) (u : Ppu) : (phase c (composePixel s d) u).staged = u.staged := by
  cases c <;> rfl

/-- The units after the work of a rendering line (R372). -/
theorem renderLine_staged (s : Int) (d : Nat) (u : Ppu) :
    (renderLine s d u).staged =
      if d = 257 then (evaluateSprites s u).staged
      else if s = -1 ∧ d = 1 then (startPreRender u).staged
      else if 2 ≤ d ∧ d ≤ 256 then (stepSprites d u).staged
      else if d = 340 then (fetchSpritePatterns s u).staged
      else u.staged := by
  rcases dot_classes d with rfl | ⟨hlo, hhi⟩ | rfl | rfl | ⟨hlo, hhi⟩ | ⟨hlo, hhi⟩ | rfl | rfl | hidle
  · rw [renderLine_first, phase_composePixel_staged, if_neg (by decide)]
    by_cases hs : s = -1
    · rw [if_pos ⟨hs, rfl⟩, decide_eq_true hs]
      rfl
    · rw [if_neg fun h => hs h.1, if_neg (by decide), if_neg (by decide), decide_eq_false hs]
      rfl
  · rw [renderLine_fetch s hlo hhi, phase_composePixel_staged, fetchWork_staged, if_neg (by omega), if_neg (by omega), if_pos (by omega)]
  · rw [renderLine_256, phase_composePixel_staged, incrementScrollY_eq, if_neg (by decide), if_neg (by omega), if_pos (by decide)]
    exact fetchWork_staged 256 u
  · have hstays : Stays u (transferAddressX (loadBackgroundShifters (fetchWork 257 u))) :=
      (fetchWork_stays 257 u).trans ((loadBackgroundShifters_stays _).trans (transferAddressX_stays _))
    rw [renderLine_257, evaluateSprites_congr hstays, if_pos rfl]
  · rw [renderLine_transfer s hlo hhi, if_neg (by omega), if_neg (by omega), if_neg (by omega), if_neg (by omega)]
    cases decide (s = -1)
    · rfl
    · rw [phase, if_pos rfl, transferAddressY_eq]
  · have hoff : ¬ (u.renderSprites = true ∧ 1 ≤ d ∧ d ≤ 257) := by omega
    rw [renderLine_prefetch s hlo hhi, fetchWork_staged, stepSprites, if_neg hoff, if_neg (by omega), if_neg (by omega), if_neg (by omega),
      if_neg (by omega)]
  · rw [renderLine_338, if_neg (by decide), if_neg (by omega), if_neg (by decide), if_neg (by decide)]
    rfl
  · rw [renderLine_340, if_neg (by decide), if_neg (by omega), if_neg (by decide), if_pos rfl]
    rfl
  · rw [renderLine_idle s hidle, if_neg (by omega), if_neg (by omega), if_neg (by omega), if_neg (by omega)]

theorem dot_staged_of_fetchLine (skip : Bool) {u : Ppu} (h : fetchLine u) :
    (dot skip u).staged = (renderLine u.scanline (dotNumber skip u) (dotStart skip u)).staged := by
  rw [dot_eq, advanceCounters_eq, dotWork_of_fetchLine h]

theorem dot_staged_of_not_fetchLine (skip : Bool) {u : Ppu} (h : ¬ fetchLine u) : (dot skip u).staged = u.staged := by
  obtain ⟨b, n, hwork⟩ := dotWork_of_not_fetchLine h (dotNumber skip u) (dotStart skip u)
  rw [dot_eq, advanceCounters_eq, hwork]
  rfl

/-- The dot-0 skip is to dot 1 of scanline 0: it meets no other dot. -/
theorem dotNumber_eq_iff (skip : Bool) (u : Ppu) {d : Nat} (h0 : d ≠ 0) (h1 : d ≠ 1) : dotNumber skip u = d ↔ u.dot = d := by
  unfold dotNumber
  split <;> omega

theorem dotNumber_preRender (skip : Bool) {u : Ppu} (h : u.scanline = -1) : dotNumber skip u = u.dot :=
  if_neg fun hskip => by omega

/-! ### Evaluation (R388) -/

theorem mem_matchingSprites (u : Ppu) (s : Int) (n : Nat) :
    n ∈ matchingSprites u s ↔ n < 64 ∧ (0 : Int) ≤ s - (u.oam.read (4 * n)).toNat ∧
      s - (u.oam.read (4 * n)).toNat < if u.control.getLsbD 5 then 16 else 8 := by
  rw [matchingSprites, List.mem_filter, List.mem_range, spriteCovers, Bool.and_eq_true, decide_eq_true_iff, decide_eq_true_iff]
  rfl

/-- The units after the evaluation: the first eight matches, and emptied ones behind them. -/
theorem evaluateSprites_unit (s : Int) (u : Ppu) {k : Nat} (hk : k < 8) :
    (evaluateSprites s u).sprites[k]? = some (match (matchingSprites u s)[k]? with
      | some n => stageSprite u.oam n
      | none => SpriteUnit.empty) := by
  have hstaged : Config.stagedSprites = 8 := rfl
  simp only [evaluateSprites, hstaged]
  by_cases hfound : k < (matchingSprites u s).length
  · have hlt : k < (((matchingSprites u s).take 8).map (stageSprite u.oam)).length := by
      rw [List.length_map, List.length_take]
      omega
    rw [List.getElem?_append_left hlt, List.getElem?_map, List.getElem?_take_of_lt hk, List.getElem?_eq_getElem hfound]
    rfl
  · have hle : (((matchingSprites u s).take 8).map (stageSprite u.oam)).length ≤ k := by
      rw [List.length_map, List.length_take]
      omega
    rw [List.getElem?_append_right hle, List.getElem?_replicate, List.getElem?_eq_none (by omega : (matchingSprites u s).length ≤ k),
      if_pos]
    rw [List.length_map, List.length_take]
    omega

/-- On a rendering line only dot 257 and the first dot of the pre-render line change what the evaluation says. -/
theorem renderLine_evaluation {s : Int} {d : Nat} (hd : d ≠ 257) (hpre : ¬ (s = -1 ∧ d = 1)) (u : Ppu) :
    (renderLine s d u).staged.2 = u.staged.2 := by
  rw [renderLine_staged, if_neg hd, if_neg hpre]
  split
  · rw [stepSprites_eq]
  · split <;> rfl

/-- What the evaluation says stands on every dot but its own; the overflow flag is cleared at `(-1, 1)` (R374, R388). -/
theorem dot_evaluation (skip : Bool) {u : Ppu} (hother : ¬ (fetchLine u ∧ u.dot = 257)) :
    (dot skip u).spriteCount = u.spriteCount ∧ (dot skip u).spriteZeroPossible = u.spriteZeroPossible ∧
    (¬ (u.scanline = -1 ∧ u.dot = 1) → (dot skip u).spriteOverflow = u.spriteOverflow) := by
  by_cases hline : fetchLine u
  · have hd : dotNumber skip u ≠ 257 := fun h => hother ⟨hline, (dotNumber_eq_iff skip u (by decide) (by decide)).1 h⟩
    by_cases hpre : u.scanline = -1 ∧ dotNumber skip u = 1
    · have hstaged := dot_staged_of_fetchLine skip hline
      rw [renderLine_staged, if_neg hd, if_pos hpre] at hstaged
      simp only [Ppu.staged, Prod.mk.injEq] at hstaged
      obtain ⟨-, hcount, hpossible, -⟩ := hstaged
      exact ⟨hcount, hpossible, fun h => absurd ⟨hpre.1, (dotNumber_preRender skip hpre.1).symm.trans hpre.2⟩ h⟩
    · have hkept := (congrArg Prod.snd (dot_staged_of_fetchLine skip hline)).trans (renderLine_evaluation hd hpre _)
      simp only [Prod.mk.injEq] at hkept
      obtain ⟨hcount, hpossible, hoverflow⟩ := hkept
      exact ⟨hcount, hpossible, fun _ => hoverflow⟩
  · have hkept := dot_staged_of_not_fetchLine skip hline
    simp only [Ppu.staged, Prod.mk.injEq] at hkept
    obtain ⟨-, hcount, hpossible, hoverflow⟩ := hkept
    exact ⟨hcount, hpossible, fun _ => hoverflow⟩

/-- Settles O51: at dot 257 `matchingSprites` is the list found; `dot_evaluation` for the other dots. -/
theorem spriteEvaluation : Obligations.SpriteEvaluation := by
  intro u skip
  refine ⟨fun hlo hhi hdot => ⟨matchingSprites u u.scanline, mem_matchingSprites u u.scanline, List.pairwise_lt_range.filter _, ?_⟩,
    dot_evaluation skip⟩
  have hd := (dotNumber_eq_iff skip u (d := 257) (by decide) (by decide)).2 hdot
  have hstaged := dot_staged_of_fetchLine skip ⟨hlo, hhi⟩
  rw [hd, renderLine_staged, if_pos rfl] at hstaged
  simp only [Ppu.staged, Prod.mk.injEq] at hstaged
  obtain ⟨hsprites, hcount, hpossible, hoverflow⟩ := hstaged
  have hzero : (0 : Nat) ∈ matchingSprites u u.scanline ↔ spriteCovers u u.scanline 0 = true := by
    rw [matchingSprites, List.mem_filter, List.mem_range]
    exact and_iff_right (by decide)
  rw [hsprites, hcount, hpossible, hoverflow]
  exact ⟨List.length_take .., rfl, hzero.symm, fun k hk => evaluateSprites_unit u.scanline u hk⟩

/-! ### The pattern address of a unit (R389) -/

/-- A pattern address is a table half, a tile and a row side by side. -/
theorem patternFields_toNat {half : BitVec 14} {n : Nat} (hhalf : half.toNat = n <<< 12) (t : Byte) {row : Nat} (hrow : row < 8) :
    (half ||| (t.setWidth 14 <<< 4) ||| BitVec.ofNat 14 row).toNat = 0x1000 * n + 16 * t.toNat + row := by
  have ht := t.isLt
  have htile : (t.setWidth 14 <<< 4).toNat = t.toNat <<< 4 := by
    rw [BitVec.toNat_shiftLeft, BitVec.toNat_setWidth, Nat.shiftLeft_eq, Nat.shiftLeft_eq]
    omega
  have hrowNat : (BitVec.ofNat 14 row).toNat = row := by
    rw [BitVec.toNat_ofNat]
    omega
  have htileLt : t.toNat <<< 4 < 2 ^ 12 := by
    rw [Nat.shiftLeft_eq]
    omega
  have hrowLt : row < 2 ^ 4 := by omega
  have hjoin : n <<< 12 + t.toNat <<< 4 = (256 * n + t.toNat) <<< 4 := by
    rw [Nat.shiftLeft_eq, Nat.shiftLeft_eq, Nat.shiftLeft_eq]
    omega
  rw [BitVec.toNat_or, BitVec.toNat_or, hhalf, htile, hrowNat, ← Nat.shiftLeft_add_eq_or_of_lt htileLt, hjoin,
    ← Nat.shiftLeft_add_eq_or_of_lt hrowLt, Nat.shiftLeft_eq]
  omega

/-- The row as it is fetched, from the bottom when the sprite is flipped vertically (R389). -/
theorem flippedRow_ofInt (flip : Bool) {row : Nat} (h : row < 8) :
    BitVec.ofInt 14 (if flip = true then 7 - (row : Int) else row) = BitVec.ofNat 14 (if flip = true then 7 - row else row) ∧
    (if flip = true then 7 - row else row) < 8 := by
  have hcast : (if flip = true then 7 - (row : Int) else row) = ((if flip = true then 7 - row else row : Nat) : Int) := by
    split <;> omega
  rw [hcast, BitVec.ofInt_natCast]
  refine ⟨rfl, ?_⟩
  split <;> omega

/-- The pattern address of a unit, as a number (R389). -/
def unitPattern (u : Ppu) (q : SpriteUnit) (row : Nat) : Nat :=
  if u.control.getLsbD 5 then
    0x1000 * (q.tile.toNat % 2) + 16 * (q.tile.toNat / 2 * 2 + if decide (row < 8) = q.attr.getLsbD 7 then 1 else 0)
      + (if q.attr.getLsbD 7 then 7 - row % 8 else row % 8)
  else (if u.control.getLsbD 3 then 0x1000 else 0) + 16 * q.tile.toNat + (if q.attr.getLsbD 7 then 7 - row else row)

/-- The tile of a tall sprite's half (R389). -/
theorem tallTile_toNat (t : Byte) (top : Bool) :
    (if top = true then t &&& 0xFE#8 else (t &&& 0xFE#8) + 1).toNat = t.toNat / 2 * 2 + if top = true then 0 else 1 := by
  have heven : ∀ t : Byte, (t &&& 0xFE#8).toNat = t.toNat / 2 * 2 := by decide
  have hlt := t.isLt
  cases top
  · show ((t &&& 0xFE#8) + 1).toNat = t.toNat / 2 * 2 + 1
    have h1 : (1 : Byte).toNat = 1 := rfl
    rw [BitVec.toNat_add, heven, h1]
    omega
  · exact heven t

theorem spritePatternAddr_eq (u : Ppu) (q : SpriteUnit) {row : Nat} {s : Int} (hs : (row : Int) = s - q.y.toNat)
    (hrow : row < if u.control.getLsbD 5 then 16 else 8) : spritePatternAddr u s q = BitVec.ofNat 14 (unitPattern u q row) := by
  apply BitVec.eq_of_toNat_eq
  have ht := q.tile.isLt
  unfold spritePatternAddr unitPattern Ppu.tallSprites
  rw [← hs]
  by_cases htall : u.control.getLsbD 5 = true
  · have hmod : row % 8 < 8 := Nat.mod_lt _ (by decide)
    obtain ⟨hrowInt, hrowLt⟩ := flippedRow_ofInt (q.attr.getLsbD 7) hmod
    have hcast : ((row % 8 : Nat) : Int) = (row : Int) % 8 := Int.natCast_mod row 8
    rw [hcast] at hrowInt
    have hhalf : (bitOf 14 q.tile 0 <<< 12).toNat = (q.tile.toNat % 2) <<< 12 := by
      rw [BitVec.toNat_shiftLeft, bitOf_toNat (by decide), Nat.pow_zero, Nat.div_one, Nat.shiftLeft_eq]
      omega
    have htop : (if (decide ((row : Int) < 8) != q.attr.getLsbD 7) = true then 0 else 1)
        = if decide (row < 8) = q.attr.getLsbD 7 then 1 else 0 := by
      have hlt : decide ((row : Int) < 8) = decide (row < 8) := decide_eq_decide.2 (by omega)
      rw [hlt]
      cases decide (row < 8) <;> cases q.attr.getLsbD 7 <;> rfl
    simp only [htall, if_true]
    rw [hrowInt, patternFields_toNat hhalf _ hrowLt, tallTile_toNat, htop, BitVec.toNat_ofNat]
    refine (Nat.mod_eq_of_lt ?_).symm
    split <;> omega
  · rw [if_neg htall] at hrow
    obtain ⟨hrowInt, hrowLt⟩ := flippedRow_ofInt (q.attr.getLsbD 7) hrow
    have hhalf : (if u.patternSprite = true then 0x1000#14 else 0).toNat = (if u.control.getLsbD 3 = true then 1 else 0) <<< 12 := by
      unfold Ppu.patternSprite
      split <;> rfl
    simp only [htall, if_false, Bool.false_eq_true]
    rw [hrowInt, patternFields_toNat hhalf _ hrowLt, BitVec.toNat_ofNat]
    split <;> omega

/-- A pattern byte in a shifter, bit by bit (R389, R390). -/
theorem orient_getLsbD (q : SpriteUnit) (b : Byte) {j : Nat} (hj : j < 8) :
    (q.orient b).getLsbD j = b.getLsbD (if q.attr.getLsbD 6 then 7 - j else j) := by
  unfold SpriteUnit.orient reverse8
  split
  · rw [BitVec.getLsbD_reverse, BitVec.getMsbD, decide_eq_true hj, Bool.true_and]
  · rfl

/-! ### The units dot by dot -/

/-- One unit after `startPreRender` (R374). -/
theorem startPreRender_unit {u : Ppu} {k : Nat} {q : SpriteUnit} (hk : k < Config.stagedSprites) (hq : u.sprites[k]? = some q) :
    (startPreRender u).sprites[k]? = some { q with shifterLo := 0, shifterHi := 0 } := by
  rw [startPreRender, getElem?_mapFirst, if_pos hk, hq]
  rfl

/-- One unit after `StepSprites()`, on the dots that make it (R378). -/
theorem stepSprites_unit {u : Ppu} {d k : Nat} {q : SpriteUnit} (hd : 2 ≤ d ∧ d ≤ 256) (hq : u.sprites[k]? = some q) :
    (stepSprites d u).sprites[k]? = some (if u.mask.getLsbD 4 = true ∧ k < u.spriteCount then q.step else q) := by
  unfold stepSprites
  by_cases hshown : u.mask.getLsbD 4 = true
  · rw [if_pos ⟨hshown, by omega, by omega⟩, getElem?_mapFirst, hq]
    by_cases hcount : k < u.spriteCount
    · rw [if_pos hcount, if_pos ⟨hshown, hcount⟩]
      rfl
    · rw [if_neg hcount, if_neg fun h => hcount h.2]
  · rw [if_neg fun h => hshown h.1, if_neg fun h => hshown h.1, hq]

/-- One unit after the pattern fetch (R389). -/
theorem fetchSpritePatterns_unit {u : Ppu} (s : Int) {k : Nat} {q : SpriteUnit} (hq : u.sprites[k]? = some q) :
    (fetchSpritePatterns s u).sprites[k]? = some (if k < u.spriteCount then fetchSprite u s q else q) := by
  rw [fetchSpritePatterns, getElem?_mapFirst, hq]
  split <;> rfl

/-- A unit whose row is inside the sprite, with its two pattern bytes (R389, R390). -/
theorem fetchSprite_eq (u : Ppu) (q : SpriteUnit) {row : Nat} {s : Int} (hs : (row : Int) = s - q.y.toNat)
    (hrow : row < if u.control.getLsbD 5 then 16 else 8) :
    fetchSprite u s q = { q with
      shifterLo := q.orient (ppuRead u (BitVec.ofNat 14 (unitPattern u q row)))
      shifterHi := q.orient (ppuRead u (BitVec.ofNat 14 (unitPattern u q row + 8))) } := by
  rw [fetchSprite, spritePatternAddr_eq u q hs hrow, BitVec.ofNat_add]
  rfl

/-- Settles O52: `renderLine_staged`, with the unit at one place after each of the three phases. -/
theorem spriteUnits : Obligations.SpriteUnits := by
  intro u skip hinv
  obtain ⟨-, -, -, ⟨hlength, -⟩, -⟩ := hinv
  dsimp only
  refine ⟨fun hline => congrArg Prod.fst (dot_staged_of_not_fetchLine skip hline), fun hline hd k q hq => ?_⟩
  have hsprites := congrArg Prod.fst ((dot_staged_of_fetchLine skip hline).trans (renderLine_staged ..))
  dsimp only [Ppu.staged] at hsprites
  rw [if_neg hd] at hsprites
  have hk : k < Config.stagedSprites := by
    rw [← hlength]
    exact (List.getElem?_eq_some_iff.1 hq).1
  have hstart : (dotStart skip u).sprites[k]? = some q := hq
  generalize dotNumber skip u = d at *
  refine ⟨fun hs hd1 => ?_, fun hpre h340 => ?_, fun h340 hcount => ?_, fun h340 hcount row hrow hlt => ?_⟩
  · rw [hsprites, if_pos ⟨hs, hd1⟩]
    exact startPreRender_unit hk hstart
  · rw [hsprites, if_neg hpre]
    by_cases hwindow : 2 ≤ d ∧ d ≤ 256
    · rw [if_pos hwindow, stepSprites_unit hwindow hstart]
      simp only [hwindow, and_true]
      rfl
    · rw [if_neg hwindow, if_neg h340, if_neg fun h => hwindow h.2.2]
      exact hq
  · rw [hsprites, if_neg (by omega), if_neg (by omega), if_pos h340]
    exact (fetchSpritePatterns_unit _ hstart).trans (congrArg some (if_neg (Nat.not_lt.2 hcount)))
  · have hunit : (fetchSpritePatterns u.scanline (dotStart skip u)).sprites[k]? = some (fetchSprite (dotStart skip u) u.scanline q) :=
      (fetchSpritePatterns_unit _ hstart).trans (congrArg some (if_pos hcount))
    rw [hsprites, if_neg (by omega), if_neg (by omega), if_pos h340, hunit, fetchSprite_eq (dotStart skip u) q hrow hlt]
    exact ⟨_, _, rfl, fun j hj => ⟨orient_getLsbD q _ hj, orient_getLsbD q _ hj⟩⟩

end Sys2Proof.Machine
end

section
/-! Pixels (48 R391 to R396, R399): which background pixel and which sprite unit a dot sees, and what it draws. -/

namespace Sys2Proof.Machine

/-! ### Selection (R392, R393) -/

/-- A layer is shown by its show flag, and in the left column by its left-column flag besides (R392, R393). -/
theorem shownAt_iff (show_ left : Bool) (d : Nat) : shownAt show_ left d = true ↔ show_ = true ∧ (left = true ∨ 9 ≤ d) := by
  rw [shownAt, Bool.and_eq_true, Bool.or_eq_true, decide_eq_true_iff]

theorem twoBits_toNat : ∀ hi lo : Bool,
    (((BitVec.ofBool hi).setWidth 2 <<< 1) ||| (BitVec.ofBool lo).setWidth 2).toNat = 2 * hi.toNat + lo.toNat ∧
    (((BitVec.ofBool hi).setWidth 3 <<< 1) ||| (BitVec.ofBool lo).setWidth 3).toNat = 2 * hi.toNat + lo.toNat := by
  decide

/-- The background pixel of a shown layer: one bit of each of the four shifters (R392). -/
theorem backgroundPixel_shown {u : Ppu} {d : Nat} (h : shownAt u.renderBackground u.renderBackgroundLeft d = true) :
    (backgroundPixel d u).color.toNat = 2 * (u.bgShifterPatternHi.toNat / 2 ^ (15 - u.fineX.toNat) % 2)
      + u.bgShifterPatternLo.toNat / 2 ^ (15 - u.fineX.toNat) % 2 ∧
    (backgroundPixel d u).palette.toNat = 2 * (u.bgShifterAttribHi.toNat / 2 ^ (15 - u.fineX.toNat) % 2)
      + u.bgShifterAttribLo.toNat / 2 ^ (15 - u.fineX.toNat) % 2 := by
  rw [backgroundPixel, if_pos h]
  simp only [← bit_toNat]
  exact ⟨(twoBits_toNat _ _).1, (twoBits_toNat _ _).2⟩

theorem color_toNat (q : SpriteUnit) : q.color.toNat = unitColor q := (twoBits_toNat _ _).1

/-- A unit is opaque, in the model's words and in the statement's (R393). -/
theorem unitOpaque_iff (q : SpriteUnit) : unitOpaque q ↔ q.x = 0 ∧ q.color ≠ 0 := by
  have hzero : q.color = 0 ↔ unitColor q = 0 := by rw [← color_toNat, ← BitVec.toNat_inj]; rfl
  exact and_congr_right fun _ => not_congr hzero.symm

theorem firstOpaque_eq_none : ∀ (n i : Nat) (l : List SpriteUnit),
    firstOpaque n i l = none ↔ ∀ (k : Nat) (q : SpriteUnit), k < n → l[k]? = some q → ¬ (q.x = 0 ∧ q.color ≠ 0)
  | 0, _, _ => iff_of_true rfl fun _ _ hk => absurd hk (Nat.not_lt_zero _)
  | _ + 1, _, [] => iff_of_true rfl fun _ _ _ hq => nomatch hq
  | n + 1, i, p :: l => by
    rw [firstOpaque]
    by_cases hp : p.x = 0 ∧ p.color ≠ 0
    · rw [if_pos hp]
      exact iff_of_false nofun fun h => h 0 p n.succ_pos rfl hp
    · rw [if_neg hp, firstOpaque_eq_none n (i + 1) l]
      refine ⟨fun h k q hk hq => ?_, fun h k q hk hq => h (k + 1) q (by omega) hq⟩
      cases k with
      | zero =>
        cases hq
        exact hp
      | succ k => exact h k q (by omega) hq

/-- The sprite pixel of a unit (R393). -/
theorem foregroundPixel_some (k : Nat) (q : SpriteUnit) : (foregroundPixel (some (k, q))).color.toNat = unitColor q ∧
    (foregroundPixel (some (k, q))).palette.toNat = q.attr.toNat % 4 + 4 ∧
    foregroundFront (some (k, q)) = !q.attr.getLsbD 5 := by
  refine ⟨color_toNat q, ?_, rfl⟩
  have h4 : (4 : BitVec 3).toNat = 4 := rfl
  show ((q.attr.extractLsb' 0 2).setWidth 3 + 4).toNat = _
  rw [BitVec.toNat_add, BitVec.toNat_setWidth, BitVec.extractLsb'_toNat, Nat.shiftRight_zero, h4]
  omega

/-- Settles O53. -/
theorem pixelSelection : Obligations.PixelSelection := by
  intro u d
  dsimp only
  have hbg := shownAt_iff u.renderBackground u.renderBackgroundLeft d
  have hfg := shownAt_iff u.renderSprites u.renderSpritesLeft d
  refine ⟨fun h => ?_, fun h => backgroundPixel_shown (hbg.2 h), ?_, fun k q => ?_, ⟨rfl, rfl⟩, foregroundPixel_some⟩
  · rw [backgroundPixel, if_neg (mt hbg.1 h)]
    exact ⟨rfl, rfl⟩
  · unfold foregroundUnit
    split
    · next hshown =>
      simp only [firstOpaque_eq_none, unitOpaque_iff]
      exact (or_iff_right (not_not_intro (hfg.1 hshown))).symm
    · next hshown => exact iff_of_true rfl (.inl (mt hfg.2 hshown))
  · unfold foregroundUnit
    split
    · next hshown =>
      simp only [unitOpaque_iff]
      rw [firstOpaque_eq_some]
      constructor
      · rintro ⟨j, rfl, hcount, hq, hopaque, hfirst⟩
        rw [Nat.zero_add]
        exact ⟨hfg.1 hshown, hcount, hq, hopaque, hfirst⟩
      · rintro ⟨-, hcount, hq, hopaque, hfirst⟩
        exact ⟨k, (Nat.zero_add k).symm, hcount, hq, hopaque, hfirst⟩
    · next hshown => exact iff_of_false nofun fun h => hshown (hfg.2 h.1)

/-! ### The colour of a pixel (R394, R396) -/

/-- The palette entry of a pixel with an opaque colour, or of the backdrop: none of the four aliases (R92, R396). -/
theorem ppuRead_colorAddr (u : Ppu) {p : Pixel} (h : p.color ≠ 0 ∨ p = ⟨0, 0⟩) :
    ppuRead u (colorAddr p) = u.palette.read (4 * p.palette.toNat + p.color.toNat) &&& u.paletteMask := by
  have hpalette := p.palette.isLt
  have hcolor := p.color.isLt
  have hbase : (0x3F00#14).toNat = 0x3F00 := rfl
  have haddr : (colorAddr p).toNat = 0x3F00 + 4 * p.palette.toNat + p.color.toNat := by
    rw [colorAddr, BitVec.toNat_add, BitVec.toNat_add, BitVec.toNat_shiftLeft, BitVec.toNat_setWidth, BitVec.toNat_setWidth,
      Nat.shiftLeft_eq, hbase]
    omega
  have hwindow : 0x3F00#14 ≤ colorAddr p := by
    rw [BitVec.le_def, haddr, hbase]
    omega
  have hoffset : (colorAddr p &&& 0x001F#14).toNat = 4 * p.palette.toNat + p.color.toNat := by
    rw [BitVec.toNat_and, show (0x001F#14).toNat = 2 ^ 5 - 1 from rfl, Nat.and_two_pow_sub_one_eq_mod, haddr]
    omega
  have hindex : palIndex (colorAddr p) = 4 * p.palette.toNat + p.color.toNat := by
    unfold palIndex
    rw [hoffset]
    refine if_neg fun halias => ?_
    rcases h with hne | rfl
    · have hpos : p.color.toNat ≠ 0 := fun h0 => hne (BitVec.eq_of_toNat_eq h0)
      omega
    · exact absurd halias (by decide)
  rw [ppuRead_palette hwindow, hindex]

/-- The palette index that the priority rule picks (R394). -/
def chosenIndex (bg fg : Pixel) (front : Bool) : Nat :=
  if bg.color = 0 ∧ fg.color = 0 then 0
  else if bg.color = 0 ∨ (fg.color ≠ 0 ∧ front = true) then 4 * fg.palette.toNat + fg.color.toNat
  else 4 * bg.palette.toNat + bg.color.toNat

theorem ppuRead_priorityPixel (u : Ppu) (bg fg : Pixel) (front : Bool) :
    ppuRead u (colorAddr (priorityPixel bg fg front)) = u.palette.read (chosenIndex bg fg front) &&& u.paletteMask := by
  unfold priorityPixel chosenIndex
  by_cases hboth : bg.color = 0 ∧ fg.color = 0
  · rw [if_pos hboth, if_pos hboth, ppuRead_colorAddr u (.inr rfl)]
    rfl
  · rw [if_neg hboth, if_neg hboth]
    by_cases hbg : bg.color = 0
    · rw [if_pos hbg, if_pos (.inl hbg), ppuRead_colorAddr u (.inl fun hfg => hboth ⟨hbg, hfg⟩)]
    · rw [if_neg hbg]
      by_cases hfg : fg.color = 0
      · rw [if_pos hfg, if_neg (not_or.2 ⟨hbg, fun h => h.1 hfg⟩), ppuRead_colorAddr u (.inl hbg)]
      · rw [if_neg hfg]
        cases front
        · rw [if_neg (by decide), if_neg (not_or.2 ⟨hbg, fun h => nomatch h.2⟩), ppuRead_colorAddr u (.inl hbg)]
        · rw [if_pos rfl, if_pos (.inr ⟨hfg, rfl⟩), ppuRead_colorAddr u (.inl hfg)]

/-! ### The dots that draw, and those that do not (R391, R395, R399) -/

/-- What drawing writes: the three sprite-zero bits and the picture. -/
abbrev Ppu.drawing (u : Ppu) : Bool × Bool × Bool × Frame := (u.spriteZeroRendered, u.spriteZeroChosen, u.spriteZeroHit, u.frameBuffer)

theorem fetchWork_drawing (d : Nat) (u : Ppu) : (fetchWork d u).drawing = u.drawing := by
  rw [fetchWork, stepSprites_eq, shiftBackground_eq]
  unfold pipelineStep
  split
  case h_5 => rw [incrementScrollX_eq]
  all_goals rfl

theorem fetchWork_possible (d : Nat) (u : Ppu) : (fetchWork d u).spriteZeroPossible = u.spriteZeroPossible := by
  have h := fetchWork_staged d u
  rw [stepSprites_eq] at h
  simp only [Ppu.staged, Prod.mk.injEq] at h
  exact h.2.2.1

/-- On the visible dots the last phase draws, from the PPU as the other phases leave it. -/
theorem renderLine_visible {s : Int} {d : Nat} (hs : 0 ≤ s) (hlo : 1 ≤ d) (hhi : d ≤ 256) (u : Ppu) :
    ∃ x, renderLine s d u = composePixel s d x ∧ Stays u x ∧ x.drawing = u.drawing ∧ x.spriteZeroPossible = u.spriteZeroPossible := by
  have hcase : d = 1 ∨ (2 ≤ d ∧ d ≤ 255) ∨ d = 256 := by omega
  rcases hcase with rfl | ⟨hlo, hhi⟩ | rfl
  · refine ⟨u, ?_, Stays.refl u, rfl, rfl⟩
    rw [renderLine_first, decide_eq_true hs, decide_eq_false (by omega)]
    rfl
  · refine ⟨fetchWork d u, ?_, fetchWork_stays d u, fetchWork_drawing d u, fetchWork_possible d u⟩
    rw [renderLine_fetch s hlo hhi, decide_eq_true hs]
    rfl
  · refine ⟨incrementScrollY (fetchWork 256 u), ?_, (fetchWork_stays 256 u).trans (incrementScrollY_stays _), ?_, ?_⟩
    · rw [renderLine_256, decide_eq_true hs]
      rfl
    · rw [incrementScrollY_eq]
      exact fetchWork_drawing 256 u
    · rw [incrementScrollY_eq]
      exact fetchWork_possible 256 u

/-- No other dot of a rendering line writes any of it, but the first of the pre-render line, which clears the hit (R374). -/
theorem renderLine_hidden {s : Int} {d : Nat} (hhidden : ¬ (0 ≤ s ∧ 1 ≤ d ∧ d ≤ 256)) (u : Ppu) :
    (renderLine s d u).drawing = (u.spriteZeroRendered, u.spriteZeroChosen,
      if s = -1 ∧ d = 1 then false else u.spriteZeroHit, u.frameBuffer) := by
  rcases dot_classes d with rfl | ⟨hlo, hhi⟩ | rfl | rfl | ⟨hlo, hhi⟩ | ⟨hlo, hhi⟩ | rfl | rfl | hidle
  · rw [renderLine_first, decide_eq_false (by omega)]
    by_cases hs : s = -1
    · rw [decide_eq_true hs, if_pos ⟨hs, rfl⟩]
      rfl
    · rw [decide_eq_false hs, if_neg fun h => hs h.1]
      rfl
  · rw [renderLine_fetch s hlo hhi, decide_eq_false (by omega), if_neg (by omega)]
    exact fetchWork_drawing d u
  · rw [renderLine_256, decide_eq_false (by omega), if_neg (by omega), incrementScrollY_eq]
    exact fetchWork_drawing 256 u
  · have hkeep : ∀ x, (evaluateSprites s (transferAddressX (loadBackgroundShifters x))).drawing = x.drawing := fun x => by
      rw [transferAddressX_eq]
      rfl
    rw [renderLine_257, if_neg (by omega), hkeep]
    exact fetchWork_drawing 257 u
  · rw [renderLine_transfer s hlo hhi, if_neg (by omega)]
    cases decide (s = -1)
    · rfl
    · rw [phase, if_pos rfl, transferAddressY_eq]
  · rw [renderLine_prefetch s hlo hhi, if_neg (by omega)]
    exact fetchWork_drawing d u
  · rw [renderLine_338, if_neg (by omega)]
    rfl
  · rw [renderLine_340, if_neg (by omega)]
    rfl
  · rw [renderLine_idle s hidle, if_neg (by omega)]

/-- The pictures at the counter advance: the end of the frame moves the picture and clears it (R399). -/
theorem advanceCounters_pictures (w : Ppu) :
    (advanceCounters w).completedFrame = (if 340 ≤ w.dot ∧ 260 ≤ w.scanline then w.frameBuffer else w.completedFrame) ∧
    (advanceCounters w).frameBuffer = if 340 ≤ w.dot ∧ 260 ≤ w.scanline then [] else w.frameBuffer := by
  unfold advanceCounters
  by_cases hdot : 340 ≤ w.dot
  · rw [if_pos (by omega)]
    by_cases hline : 260 ≤ w.scanline
    · rw [if_pos (by omega), if_pos ⟨hdot, hline⟩, if_pos ⟨hdot, hline⟩]
      exact ⟨rfl, rfl⟩
    · rw [if_neg (by omega), if_neg fun h => hline h.2, if_neg fun h => hline h.2]
      exact ⟨rfl, rfl⟩
  · rw [if_neg (by omega), if_neg fun h => hdot h.1, if_neg fun h => hdot h.1]
    exact ⟨rfl, rfl⟩

theorem any_eq_zero_iff (unit : Option (Nat × SpriteUnit)) : unit.any (fun q => q.1 == 0) = true ↔ ∃ q, unit = some (0, q) := by
  match unit with
  | none => exact iff_of_false nofun nofun
  | some (0, q) => exact iff_of_true rfl ⟨q, rfl⟩
  | some (k + 1, q) => exact iff_of_false nofun nofun

/-- The state that a drawing dot leaves: the drawn one, one dot on. -/
theorem dot_of_visible (skip : Bool) {u : Ppu} (hs : 0 ≤ u.scanline) (hs' : u.scanline ≤ 239) (hlo : 1 ≤ dotNumber skip u)
    (hhi : dotNumber skip u ≤ 256) :
    ∃ x, dot skip u = { composePixel u.scanline (dotNumber skip u) x with dot := dotNumber skip u + 1 } ∧
      Stays (dotStart skip u) x ∧ x.drawing = u.drawing ∧ x.spriteZeroPossible = u.spriteZeroPossible := by
  obtain ⟨x, hx, hstays, hdrawing, hpossible⟩ := renderLine_visible hs hlo hhi (dotStart skip u)
  have hdot : (composePixel u.scanline (dotNumber skip u) x).dot = dotNumber skip u := hstays.2.2.2.1
  refine ⟨x, ?_, hstays, hdrawing, hpossible⟩
  rw [dot_eq, dotWork_of_fetchLine ⟨by omega, hs'⟩, hx, advanceCounters, if_neg (by omega), hdot]

/-- A dot that draws (R391 to R396). -/
theorem dot_visible (skip : Bool) {u : Ppu} (hs : 0 ≤ u.scanline) (hs' : u.scanline ≤ 239) (hlo : 1 ≤ dotNumber skip u)
    (hhi : dotNumber skip u ≤ 256) :
    let w := dot skip u
    let bg := backgroundPixel (dotNumber skip u) w
    let unit := foregroundUnit (dotNumber skip u) w
    let fg := foregroundPixel unit
    w.frameBuffer = u.frameBuffer.write (256 * u.scanline.toNat + (dotNumber skip u - 1))
      ((u.palette.read (chosenIndex bg fg (foregroundFront unit)) &&& u.paletteMask).setWidth 6) ∧
    w.completedFrame = u.completedFrame ∧
    w.spriteZeroRendered = unit.any (fun q => q.1 == 0) ∧
    w.spriteZeroChosen = (unit.any (fun q => q.1 == 0) && u.spriteZeroPossible) ∧
    w.spriteZeroHit = (u.spriteZeroHit || (bg.color != 0 && fg.color != 0 && u.spriteZeroPossible && unit.any (fun q => q.1 == 0)
      && u.renderBackground && u.renderSprites)) := by
  obtain ⟨x, hx, hstays, hdrawing, hpossible⟩ := dot_of_visible skip hs hs' hlo hhi
  obtain ⟨⟨-, hmask, -⟩, ⟨-, -, hpalette, -⟩, -, -, -, hcompleted⟩ := hstays
  simp only [Ppu.drawing, Prod.mk.injEq] at hdrawing
  obtain ⟨-, -, hhit, hframe⟩ := hdrawing
  have hbg : backgroundPixel (dotNumber skip u) (dot skip u) = backgroundPixel (dotNumber skip u) x := by rw [hx]; rfl
  have hunit : foregroundUnit (dotNumber skip u) (dot skip u) = foregroundUnit (dotNumber skip u) x := by rw [hx]; rfl
  have hpaletteMask : x.paletteMask = u.paletteMask := by
    unfold Ppu.paletteMask Ppu.grayscale
    rw [hmask]
    rfl
  have hshown : x.renderBackground = u.renderBackground ∧ x.renderSprites = u.renderSprites := by
    unfold Ppu.renderBackground Ppu.renderSprites
    rw [hmask]
    exact ⟨rfl, rfl⟩
  dsimp only
  rw [hbg, hunit, hx]
  refine ⟨?_, hcompleted, rfl, ?_, ?_⟩
  · show x.frameBuffer.write (Frame.cell _ _) ((ppuRead x _).setWidth 6) = _
    rw [ppuRead_priorityPixel, hframe, hpalette, hpaletteMask]
    rfl
  · show (_ && x.spriteZeroPossible) = _
    rw [hpossible]
  · show (x.spriteZeroHit || (_ && x.spriteZeroPossible && _ && x.renderBackground && x.renderSprites)) = _
    rw [hhit, hpossible, hshown.1, hshown.2]

/-- A dot that draws nothing: the bits, and the pictures before the counter advance. -/
theorem dot_hidden (skip : Bool) {u : Ppu} (h : ¬ (0 ≤ u.scanline ∧ u.scanline ≤ 239 ∧ 1 ≤ dotNumber skip u ∧ dotNumber skip u ≤ 256)) :
    ∃ x, dot skip u = advanceCounters x ∧ x.scanline = u.scanline ∧ x.dot = dotNumber skip u ∧ x.completedFrame = u.completedFrame ∧
      x.drawing = (u.spriteZeroRendered, u.spriteZeroChosen,
        if u.scanline = -1 ∧ dotNumber skip u = 1 then false else u.spriteZeroHit, u.frameBuffer) := by
  obtain ⟨hline, hdot, hcompleted⟩ := dotWork_position u.scanline (dotNumber skip u) (dotStart skip u)
  refine ⟨_, dot_eq skip u, hline, hdot, hcompleted, ?_⟩
  by_cases hfetch : fetchLine u
  · rw [dotWork_of_fetchLine hfetch, renderLine_hidden (by omega)]
    rfl
  · obtain ⟨b, n, hwork⟩ := dotWork_of_not_fetchLine hfetch (dotNumber skip u) (dotStart skip u)
    rw [hwork, if_neg (by omega)]
    rfl

theorem dotNumber_le (skip : Bool) {u : Ppu} (h : u.dot ≤ 340) : dotNumber skip u ≤ 340 := by
  unfold dotNumber
  split <;> omega

/-- Settles O54: `dot_visible` and `dot_hidden`; the last dot of the frame is the one at `(260, 340)`. -/
theorem pixelComposition : Obligations.PixelComposition := by
  intro u skip hinv
  obtain ⟨-, ⟨-, hline260⟩, hdot340, -, hframe, -⟩ := hinv
  have hdle := dotNumber_le skip hdot340
  dsimp only
  refine ⟨fun hs hs' hlo hhi => ?_, fun hhidden => ?_⟩
  · obtain ⟨hpicture, hcompleted, hrendered, hchosen, hhit⟩ := dot_visible skip hs hs' hlo hhi
    have hread := fun k => Frame.read_write (256 * u.scanline.toNat + (dotNumber skip u - 1)) k
      ((u.palette.read (chosenIndex (backgroundPixel (dotNumber skip u) (dot skip u))
        (foregroundPixel (foregroundUnit (dotNumber skip u) (dot skip u)))
        (foregroundFront (foregroundUnit (dotNumber skip u) (dot skip u)))) &&& u.paletteMask).setWidth 6) hframe
    refine ⟨fun k hk => ?_, ?_, hcompleted, ?_, ?_, ?_⟩
    · rw [hpicture, hread, if_neg hk]
    · rw [hpicture, hread, if_pos rfl]
      rfl
    · rw [hrendered, any_eq_zero_iff]
    · rw [hchosen, Bool.and_eq_true, any_eq_zero_iff, and_comm]
    · rw [hhit]
      simp only [Bool.or_eq_true, Bool.and_eq_true, any_eq_zero_iff, bne_iff_ne, and_assoc]
      rfl
  · obtain ⟨x, hx, hline, hdot, hcompleted, hdrawing⟩ := dot_hidden skip hhidden
    simp only [Ppu.drawing, Prod.mk.injEq] at hdrawing
    obtain ⟨hrendered, hchosen, hhit, hpicture⟩ := hdrawing
    obtain ⟨hadvCompleted, hadvFrame⟩ := advanceCounters_pictures x
    have hbits := advanceCounters_eq x
    have hlast : (340 ≤ x.dot ∧ 260 ≤ x.scanline) ↔ (u.scanline = 260 ∧ dotNumber skip u = 340) := by
      rw [hline, hdot]
      omega
    rw [hx]
    refine ⟨?_, ?_, fun hpre => ?_, fun hend => ?_, fun hend hend' => ?_⟩
    · rw [hbits]
      exact hrendered
    · rw [hbits]
      exact hchosen
    · rw [hbits]
      exact hhit.trans (if_neg hpre)
    · rw [hadvFrame, hadvCompleted, if_neg (mt hlast.1 hend), if_neg (mt hlast.1 hend)]
      exact ⟨hpicture, hcompleted⟩
    · rw [hadvFrame, hadvCompleted, if_pos (hlast.2 ⟨hend, hend'⟩), if_pos (hlast.2 ⟨hend, hend'⟩)]
      exact ⟨hpicture, fun _ => rfl⟩

end Sys2Proof.Machine
end

section
/-! `reset()` and construction (70 R500, R501): what a core starts as. -/

namespace Sys2Proof.Machine

/-- A CPU reset writes the register file, the pending counter and `run` (R501). -/
theorem cpuReset_eq (s : State) : cpuReset s = { s with
    a := 0x00, x := 0x00, y := 0x00, sp := 0xFD, p := 0x24, cycles := 0, run := .running
    pc := wordOf (peek s 0xFFFD) (peek s 0xFFFC) } := rfl

/-- The admitted image lengths are those of a size (R80). -/
theorem ofLength_eq_none {n : Nat} (h16 : n ≠ 0x4000) (h32 : n ≠ 0x8000) : PrgSize.ofLength n = none := by
  rw [PrgSize.ofLength, if_neg h16, if_neg h32]

theorem ofLength_eq_some {n : Nat} (h : n = 0x4000 ∨ n = 0x8000) : ∃ size, PrgSize.ofLength n = some size ∧ size.bytes = n := by
  rcases h with rfl | rfl
  · exact ⟨.kib16, rfl, rfl⟩
  · exact ⟨.kib32, rfl, rfl⟩

theorem positionOk_iff (c : Setup) : c.positionOk = true ↔ -1 ≤ c.scanline ∧ c.scanline ≤ 260 ∧ c.dot ≤ 340 := by
  rw [Setup.positionOk, Bool.and_eq_true, Bool.and_eq_true, decide_eq_true_iff, decide_eq_true_iff, decide_eq_true_iff, and_assoc]

/-- Initial contents are read back inside their memory (log 23). -/
theorem read_initialMemory (bytes : List Byte) {n k : Nat} (hk : k < n) : (initialMemory n bytes).read k = bytes.getD k 0 := by
  rw [initialMemory, Memory.read_ofBytes, List.getD_eq_getElem?_getD, List.getElem?_take_of_lt hk, List.getD_eq_getElem?_getD]
  rfl

/-- The PRG image in its window, once or twice (R79). -/
theorem peek_prgImage (c : Setup) {size : PrgSize} (hsize : size.bytes = c.prgRom.length) {s : State}
    (hrom : s.prgRom = Memory.ofBytes c.prgRom) (hprgSize : s.prgSize = size) {k : Nat} (hk : k < 0x8000) :
    peek s (BitVec.ofNat 16 (0x8000 + k)) = c.prgRom.getD (k % c.prgRom.length) 0 := by
  have haddr : (BitVec.ofNat 16 (0x8000 + k)).toNat = 0x8000 + k := by
    rw [BitVec.toNat_ofNat]
    omega
  have hwindow : 0x8000#16 ≤ BitVec.ofNat 16 (0x8000 + k) := by
    rw [BitVec.le_def, haddr]
    exact Nat.le_add_right _ _
  rw [peek_rom hwindow, hrom, Memory.read_ofBytes, prgOffset, haddr, hprgSize, hsize, Nat.add_sub_cancel_left]
  rfl

/-- The vector of a reset: the last bytes but two of the image (R82, R501). -/
theorem resetVector_prgImage (c : Setup) {size : PrgSize} (hsize : size.bytes = c.prgRom.length) {s : State}
    (hrom : s.prgRom = Memory.ofBytes c.prgRom) (hprgSize : s.prgSize = size) :
    wordOf (peek s 0xFFFD) (peek s 0xFFFC)
      = wordOf (c.prgRom.getD (c.prgRom.length - 3) 0) (c.prgRom.getD (c.prgRom.length - 4) 0) := by
  have hhigh : peek s 0xFFFD = c.prgRom.getD (0x7FFD % c.prgRom.length) 0 :=
    peek_prgImage c hsize hrom hprgSize (k := 0x7FFD) (by decide)
  have hlow : peek s 0xFFFC = c.prgRom.getD (0x7FFC % c.prgRom.length) 0 :=
    peek_prgImage c hsize hrom hprgSize (k := 0x7FFC) (by decide)
  have hoffsets : 0x7FFD % c.prgRom.length = c.prgRom.length - 3 ∧ 0x7FFC % c.prgRom.length = c.prgRom.length - 4 := by
    rw [← hsize]
    cases size <;> decide
  rw [hhigh, hlow, hoffsets.1, hoffsets.2]

/-- The CHR image in the pattern tables (R90). -/
theorem ppuRead_chrImage (bytes : List Byte) {u : Ppu} (hchr : u.chrRom = Memory.ofBytes bytes) {k : Nat} (hk : k < 0x2000) :
    ppuRead u (BitVec.ofNat 14 k) = bytes.getD k 0 := by
  have haddr : (BitVec.ofNat 14 k).toNat = k := by
    rw [BitVec.toNat_ofNat]
    omega
  have hwindow : BitVec.ofNat 14 k < 0x2000#14 := by
    rw [BitVec.lt_def, haddr]
    exact hk
  rw [ppuRead, if_pos hwindow, haddr, hchr, Memory.read_ofBytes]
  rfl

/-- Settles O56: the refusals are the branches of `powerOn`, and `t0` is the reset of the constructed state. -/
theorem powerOnAndReset : Obligations.PowerOnAndReset := by
  refine ⟨cpuReset_eq, fun c => ⟨fun h16 h32 => ?_, fun hprg => ?_⟩⟩
  · rw [powerOn, ofLength_eq_none h16 h32]
  · obtain ⟨size, hlength, hsize⟩ := ofLength_eq_some hprg
    have hbytes : Config.chrBytes = 0x2000 := rfl
    refine ⟨fun hchr => ?_, fun hchr => ⟨fun hposition => ?_, fun hlo hhi hdot => ?_⟩⟩
    · simp only [powerOn, hlength, hbytes]
      rw [if_pos hchr]
    · simp only [powerOn, hlength, hbytes]
      rw [if_neg (not_not_intro hchr), if_neg (mt (positionOk_iff c).1 hposition)]
    · refine ⟨cpuReset (atPowerOn c size), _, ?_, rfl, ?_, rfl, rfl, rfl, rfl, rfl, resetVector_prgImage c hsize rfl rfl,
        fun k hk => peek_prgImage c hsize rfl rfl hk, fun k hk => ppuRead_chrImage c.chrRom rfl hk,
        fun k hk => ⟨read_initialMemory c.ram hk, read_initialMemory c.vram hk⟩, fun k hk => read_initialMemory c.palette hk,
        fun k hk => read_initialMemory c.oam hk, rfl, rfl, rfl, rfl, rfl⟩
      · simp only [powerOn, hlength, hbytes]
        rw [if_neg (not_not_intro hchr), if_pos ((positionOk_iff c).2 ⟨hlo, hhi, hdot⟩)]
      · rw [busTick_busCycles]
        exact Nat.zero_add _

end Sys2Proof.Machine
end
